-- ==== Sys2Proof/Word.lean ====
section
/-! DEFINITION. The units of the CFC block's frames: bytes, 16-bit words, 32-bit fields, byte strings and framed
words (spec/00_scope.md R8, R10; spec/30_encoding.md R66). -/

namespace Sys2Proof

/-- A byte: 8 bits, bit 7 the most significant (R8). -/
abbrev Byte := BitVec 8

/-- A raw word: 16 bits, unsigned (R10). -/
abbrev Word := BitVec 16

/-- A 32-bit field of a frame: a Q65535 numerator or a gas index, two's complement (R69). -/
abbrev Field32 := BitVec 32

/-- A byte string, first byte first: a request frame, a response frame or a part of one (R8, R40, R60, R61). -/
abbrev Frame := List Byte

/-- The byte image of one framed word, exactly as it travels: high data byte, low data byte, checksum byte
(R66, R100). Every one of the 2^24 values is legal operand data (R71); valid or not is `decodeWord`'s matter. -/
structure FramedWord where
  hi : Byte
  lo : Byte
  crc : Byte
deriving DecidableEq, Repr

end Sys2Proof
end

