-- ==== Sys2Proof/Config.lean ====
section
/-! DEFINITION. What is fixed when a block is built (the open parameters of spec/00_scope.md R6) and what the spec
leaves free (the collaborator's functions, R27, R186; the outcome of a reset during a gas operation, R30). -/

namespace Sys2Proof

/-- The open parameters of R6, the ones the spec asks a model to take as arguments (spec/93, U8). They are held in
State and no step changes them (R26, R203). LAT is not among them: the model is untimed (R211).
DESIGN CHOICE, log entry 1 (safe): statements are about every admissible value, not about the defaults. -/
structure Params where
  /-- RH_SPAN, the humidity scale numerator (R6, R122). -/
  rhSpan : Int
  /-- RH_OFFSET, the humidity offset in %RH (R6, R122). -/
  rhOffset : Int
  /-- KMAX, the largest group count of an FRM.DECK request (R6, R65). -/
  kmax : Nat
  /-- IDX_BITS, the width of the collaborator's signed index (R6, D15). -/
  idxBits : Nat
deriving DecidableEq, Repr

/-- The parameters are admissible: R7 (i) to (iv) for the humidity pair, R65 for KMAX, and an index that fits the
four-byte field of R69 (the last is a DESIGN CHOICE, log entry 2, safe). -/
abbrev Params.Wf (p : Params) : Prop :=
  0 < p.rhSpan ∧ p.rhOffset < 0 ∧ 100 < p.rhSpan + p.rhOffset ∧ p.rhOffset ≤ -2 ∧
  p.rhSpan ≤ 8191 ∧ -8191 ≤ p.rhOffset ∧
  3 ≤ p.kmax ∧ p.kmax ≤ 8 ∧
  1 ≤ p.idxBits ∧ p.idxBits ≤ 32

/-- A state of the collaborator: a value of the spec's opaque type VocState (R27).
DESIGN CHOICE, log entry 3 (safe): the type is coded by natural numbers; what a code means is open. -/
structure VocState where
  code : Nat
deriving DecidableEq, Repr, Inhabited

namespace Config

/-- The collaborator's `process`: of it nothing is assumed but that it is a function of the state and the ticks
(R27, R124, R186). The index is a signed integer of IDX_BITS bits. Log entry 5 (safe). -/
opaque vocProcess (idxBits : Nat) : VocState → Word → VocState × BitVec idxBits

/-- The collaborator's `init`, called by the host and never by the block (R186, R204): the state it leaves, from
its argument and the state before. Log entry 5 (safe). -/
opaque vocInit : VocState → VocState → VocState

/-- Free value: whether, at draw n, a reset that abandons a gas operation came after the collaborator's call (R30,
spec/93 U7: a model admits both). Log entry 6 (safe). -/
opaque resetAfterCall : Nat → Bool

end Config

end Sys2Proof
end

