-- ==== Sys2Proof/Machine/Constants.lean ====
section
/-! DEFINITION. The parameters the source fixes (spec/00_scope.md R6, origin "source") and the defaults of the open
ones. -/

namespace Sys2Proof.Machine

/-- CRC_POLY: the generator polynomial's low eight coefficients (R6, R90). -/
def crcPoly : Byte := 0x31

/-- CRC_INIT: the CRC register at the start of every checksum (R6, R21, R90). -/
def crcInit : Byte := 0xFF

/-- PHYS_DEN: the denominator of the Q65535 format (R6, R11). -/
def physDen : Int := 65535

/-- T_SPAN (R6). -/
def tSpan : Int := 175

/-- T_OFFSET, in °C (R6). -/
def tOffset : Int := -45

/-- T_MIN, in °C, inclusive (R6, R141). -/
def tMin : Int := -45

/-- T_MAX, in °C, inclusive (R6, R141). -/
def tMax : Int := 130

/-- RH_MIN, in %RH, inclusive (R6, R123, R141). -/
def rhMin : Int := 0

/-- RH_MAX, in %RH, inclusive (R6, R123, R141). -/
def rhMax : Int := 100

/-- SELFTEST_PASS: the high byte of a passing status word (R6, R160). -/
def selftestPassByte : Byte := 0xD4

/-- The defaults of the open parameters: RH_SPAN 125, RH_OFFSET -6, KMAX 8, IDX_BITS 32 (R6). Log entry 1. -/
def defaultParams : Params := { rhSpan := 125, rhOffset := -6, kmax := 8, idxBits := 32 }

end Sys2Proof.Machine
end

