-- ==== Sys2Proof/Syntax.lean ====
section
/-! DEFINITION. The fifteen operations of the opcode map (spec/30_encoding.md R62), with their operands as R63 and
R67 assemble them. -/

namespace Sys2Proof

/-- One constructor for each row of spec/opcode_table.json. A format W operand is a 16-bit word, a framed-word
operand (formats G, G2, G3, K) is the byte image of a group and is not assembled (R67), a format N operand is a
32-bit two's-complement numerator. -/
inductive Instr where
  /-- CRC.COMPUTE, 0x10, format W (R93). -/
  | crcCompute (w : Word)
  /-- CRC.VALIDATE, 0x11, format G (R94). -/
  | crcValidate (g : FramedWord)
  /-- FRM.ENC, 0x20, format W (R103). -/
  | frmEnc (v : Word)
  /-- FRM.DEC, 0x21, format G (R104). -/
  | frmDec (g : FramedWord)
  /-- FRM.DECK, 0x22, format K (R106): the count is the number of groups. -/
  | frmDeck (groups : List FramedWord)
  /-- CNV.T, 0x30, format W (R125). -/
  | cnvT (raw : Word)
  /-- CNV.RH, 0x31, format W (R126). -/
  | cnvRh (raw : Word)
  /-- CNV.GAS, 0x32, format W (R127). -/
  | cnvGas (ticks : Word)
  /-- MEAS.HT, 0x38, format G2 (R130): group 0 is the temperature, group 1 the humidity (R132). -/
  | measHt (g0 g1 : FramedWord)
  /-- MEAS.GAS, 0x39, format G (R131). -/
  | measGas (g : FramedWord)
  /-- CMP.RH, 0x40, format N (R147). -/
  | cmpRh (nRh : Field32)
  /-- CMP.T, 0x41, format N (R146). -/
  | cmpT (nT : Field32)
  /-- CMP.PAIR, 0x42, format NN (R148): humidity first, temperature second. -/
  | cmpPair (nRh nT : Field32)
  /-- ST.DEC, 0x50, format G (R161). -/
  | stDec (g : FramedWord)
  /-- SN.DEC, 0x51, format G3 (R163). -/
  | snDec (g0 g1 g2 : FramedWord)
deriving DecidableEq, Repr

end Sys2Proof
end

