-- ==== Sys2Proof/Decode.lean ====
section
/-! DEFINITION. Byte order, the opcode map, the decoder of request frames (spec/30_encoding.md R60 to R67, R71, R74)
and its encoder. -/

namespace Sys2Proof

/-! ## Byte order (R9, R43, R44) -/

/-- `hi(w) = w[15:8]` (R9). -/
def hiByte (w : Word) : Byte := w.extractLsb' 8 8

/-- `lo(w) = w[7:0]` (R9). -/
def loByte (w : Word) : Byte := w.extractLsb' 0 8

/-- `be16(b0, b1)`: the first byte is the high one (R9, R43, R67). -/
def be16 (b0 b1 : Byte) : Word := b0 ++ b1

/-- The 32-bit field `b0 ‖ b1 ‖ b2 ‖ b3`, most significant byte first (R9, R44); `be32s` is its `toInt`. -/
def be32 (b0 b1 b2 b3 : Byte) : Field32 := b0 ++ b1 ++ b2 ++ b3

/-- The two bytes of a word, in wire order (R43). -/
def bytes16 (w : Word) : Frame := [hiByte w, loByte w]

/-- The four bytes of a field, most significant first (R44, R69). -/
def bytes32 (v : Field32) : Frame :=
  [v.extractLsb' 24 8, v.extractLsb' 16 8, v.extractLsb' 8 8, v.extractLsb' 0 8]

/-- `enc32s(n)`: the four bytes of the two's-complement form of n (R9, R69). -/
def enc32s (n : Int) : Frame := bytes32 (BitVec.ofInt 32 n)

/-- The three bytes of a framed word, in wire order (R66). -/
def FramedWord.bytes (g : FramedWord) : Frame := [g.hi, g.lo, g.crc]

/-! ## The opcode map (R62) -/

/-- The seven operand formats (R63). -/
inductive Format where
  | w | g | g2 | g3 | k | n | nn
deriving DecidableEq, Repr

/-- The length of a request frame of a format; the count matters to format K only (R62, R64). -/
def Format.frameLength : Format → Nat → Nat
  | .w, _ => 3
  | .g, _ => 4
  | .g2, _ => 7
  | .g3, _ => 10
  | .k, count => 2 + 3 * count
  | .n, _ => 5
  | .nn, _ => 9

/-- The fifteen rows of the opcode map (R62). -/
inductive Opcode where
  | crcCompute | crcValidate
  | frmEnc | frmDec | frmDeck
  | cnvT | cnvRh | cnvGas | measHt | measGas
  | cmpRh | cmpT | cmpPair
  | stDec | snDec
deriving DecidableEq, Repr

/-- Every row once (R62). -/
def Opcode.all : List Opcode :=
  [.crcCompute, .crcValidate, .frmEnc, .frmDec, .frmDeck, .cnvT, .cnvRh, .cnvGas, .measHt, .measGas,
   .cmpRh, .cmpT, .cmpPair, .stDec, .snDec]

/-- Column OP (R62). -/
def Opcode.code : Opcode → Byte
  | .crcCompute => 0x10
  | .crcValidate => 0x11
  | .frmEnc => 0x20
  | .frmDec => 0x21
  | .frmDeck => 0x22
  | .cnvT => 0x30
  | .cnvRh => 0x31
  | .cnvGas => 0x32
  | .measHt => 0x38
  | .measGas => 0x39
  | .cmpRh => 0x40
  | .cmpT => 0x41
  | .cmpPair => 0x42
  | .stDec => 0x50
  | .snDec => 0x51

/-- Column "operand format" (R62). -/
def Opcode.format : Opcode → Format
  | .crcCompute => .w
  | .crcValidate => .g
  | .frmEnc => .w
  | .frmDec => .g
  | .frmDeck => .k
  | .cnvT => .w
  | .cnvRh => .w
  | .cnvGas => .w
  | .measHt => .g2
  | .measGas => .g
  | .cmpRh => .n
  | .cmpT => .n
  | .cmpPair => .nn
  | .stDec => .g
  | .snDec => .g3

/-- The row an opcode byte selects; none for the 241 reserved bytes (R62, R71). -/
def opcodeOf (b : Byte) : Option Opcode := Opcode.all.find? fun o => o.code == b

/-! ## Operand assembly (R63, R67) -/

/-- Format W: one word, high byte first. -/
def readW : Frame → Option Word
  | [b0, b1] => some (be16 b0 b1)
  | _ => none

/-- Format G: one group, not assembled. -/
def readG : Frame → Option FramedWord
  | [b0, b1, b2] => some ⟨b0, b1, b2⟩
  | _ => none

/-- The groups of a K-group operand, group i at offset 3 i (R46); none unless the length is exactly 3 K (R47). -/
def readGroups : Nat → Frame → Option (List FramedWord)
  | 0, [] => some []
  | k + 1, b0 :: b1 :: b2 :: rest => (readGroups k rest).map (⟨b0, b1, b2⟩ :: ·)
  | _, _ => none

/-- Format G2: group 0, group 1. -/
def readG2 : Frame → Option (FramedWord × FramedWord)
  | [b0, b1, b2, b3, b4, b5] => some (⟨b0, b1, b2⟩, ⟨b3, b4, b5⟩)
  | _ => none

/-- Format G3: group 0, group 1, group 2. -/
def readG3 : Frame → Option (FramedWord × FramedWord × FramedWord)
  | [b0, b1, b2, b3, b4, b5, b6, b7, b8] => some (⟨b0, b1, b2⟩, ⟨b3, b4, b5⟩, ⟨b6, b7, b8⟩)
  | _ => none

/-- Format N: one 32-bit numerator. -/
def readN : Frame → Option Field32
  | [b0, b1, b2, b3] => some (be32 b0 b1 b2 b3)
  | _ => none

/-- Format NN: the humidity numerator, then the temperature numerator. -/
def readNN : Frame → Option (Field32 × Field32)
  | [b0, b1, b2, b3, b4, b5, b6, b7] => some (be32 b0 b1 b2 b3, be32 b4 b5 b6 b7)
  | _ => none

/-! ## Decoding a request frame (R74) -/

/-- Why a frame is refused: the three causes of an illegal request (R171, R175). -/
inductive Illegal where
  /-- Status 0x81: byte 0 is none of the fifteen opcode bytes. -/
  | opcode
  /-- Status 0x82: empty frame, missing count byte, or wrong length. -/
  | length
  /-- Status 0x83: the count of FRM.DECK is above KMAX. -/
  | count
deriving DecidableEq, Repr

/-- The instruction of operands whose length was right; otherwise 0x82. -/
def withOperands {α : Type} (mk : α → Instr) : Option α → Except Illegal Instr
  | none => .error .length
  | some a => .ok (mk a)

/-- FRM.DECK: the count byte, then the count, then the length, in this order (R74, R176). -/
def decodeDeck (p : Params) : Frame → Except Illegal Instr
  | [] => .error .length
  | k :: body =>
    if p.kmax < k.toNat then .error .count else withOperands .frmDeck (readGroups k.toNat body)

/-- The operands that follow an opcode byte, in the row's format (R62, R63). -/
def decodeOperands (p : Params) (o : Opcode) (rest : Frame) : Except Illegal Instr :=
  match o with
  | .crcCompute => withOperands .crcCompute (readW rest)
  | .crcValidate => withOperands .crcValidate (readG rest)
  | .frmEnc => withOperands .frmEnc (readW rest)
  | .frmDec => withOperands .frmDec (readG rest)
  | .frmDeck => decodeDeck p rest
  | .cnvT => withOperands .cnvT (readW rest)
  | .cnvRh => withOperands .cnvRh (readW rest)
  | .cnvGas => withOperands .cnvGas (readW rest)
  | .measHt => withOperands (fun gs => .measHt gs.1 gs.2) (readG2 rest)
  | .measGas => withOperands .measGas (readG rest)
  | .cmpRh => withOperands .cmpRh (readN rest)
  | .cmpT => withOperands .cmpT (readN rest)
  | .cmpPair => withOperands (fun ns => .cmpPair ns.1 ns.2) (readNN rest)
  | .stDec => withOperands .stDec (readG rest)
  | .snDec => withOperands (fun gs => .snDec gs.1 gs.2.1 gs.2.2) (readG3 rest)

/-- Decode a request frame: total on every byte string, the empty one included; the first failing check decides
(R74, R176). The domain checks of the CMP operations are made by the operations (R141). -/
def decode (p : Params) : Frame → Except Illegal Instr
  | [] => .error .length
  | b :: rest =>
    match opcodeOf b with
    | none => .error .opcode
    | some o => decodeOperands p o rest

/-! ## Encoding (R60, R63) -/

/-- The row of the opcode map an instruction stands in. -/
def Instr.opcode : Instr → Opcode
  | .crcCompute _ => .crcCompute
  | .crcValidate _ => .crcValidate
  | .frmEnc _ => .frmEnc
  | .frmDec _ => .frmDec
  | .frmDeck _ => .frmDeck
  | .cnvT _ => .cnvT
  | .cnvRh _ => .cnvRh
  | .cnvGas _ => .cnvGas
  | .measHt _ _ => .measHt
  | .measGas _ => .measGas
  | .cmpRh _ => .cmpRh
  | .cmpT _ => .cmpT
  | .cmpPair _ _ => .cmpPair
  | .stDec _ => .stDec
  | .snDec _ _ _ => .snDec

/-- The bytes after the opcode byte (R63). -/
def Instr.operandBytes : Instr → Frame
  | .crcCompute w => bytes16 w
  | .crcValidate g => g.bytes
  | .frmEnc v => bytes16 v
  | .frmDec g => g.bytes
  | .frmDeck groups => BitVec.ofNat 8 groups.length :: groups.flatMap FramedWord.bytes
  | .cnvT raw => bytes16 raw
  | .cnvRh raw => bytes16 raw
  | .cnvGas ticks => bytes16 ticks
  | .measHt g0 g1 => g0.bytes ++ g1.bytes
  | .measGas g => g.bytes
  | .cmpRh nRh => bytes32 nRh
  | .cmpT nT => bytes32 nT
  | .cmpPair nRh nT => bytes32 nRh ++ bytes32 nT
  | .stDec g => g.bytes
  | .snDec g0 g1 g2 => g0.bytes ++ g1.bytes ++ g2.bytes

/-- The request frame of a well-formed instruction (R60, R63). -/
def encode (i : Instr) : Frame := i.opcode.code :: i.operandBytes

/-! ## The table's numbering

The opcode table numbers an instruction's bits from the first byte of the frame: byte k is bits 8 k + 7 to 8 k. A frame
carries no length, its transport does (R60); so the frame of a table word has the length its opcode and count require,
the bits above `nbits` being 0. DESIGN CHOICE, log entry 8 (safe). -/

/-- The first `len` bytes of the number w, byte 0 its least significant. -/
def numberBytes : Nat → Nat → Frame
  | 0, _ => []
  | len + 1, w => BitVec.ofNat 8 w :: numberBytes len (w / 256)

/-- The length of the frame of a table word: what the opcode (byte 0) and count (byte 1) require, and never less
than the bytes the table gives. -/
def tableLength (nbits w : Nat) : Nat :=
  match opcodeOf (BitVec.ofNat 8 w) with
  | none => nbits / 8
  | some o => max (nbits / 8) (o.format.frameLength (w / 256 % 256))

/-- The request frame of a table word. -/
def tableFrame (nbits w : Nat) : Frame :=
  numberBytes (tableLength nbits (w % 2 ^ nbits)) (w % 2 ^ nbits)

/-- What the decoder of a block with the default parameters reads from a table word. -/
def decodeTableWord (nbits w : Nat) : Option Instr :=
  match decode Machine.defaultParams (tableFrame nbits w) with
  | .ok i => some i
  | .error _ => none

end Sys2Proof
end

