-- ==== Sys2Proof/Machine/Flags.lean ====
section
/-! DEFINITION. What stands in the place of flags: the status byte, the mask byte and the Boolean byte of a response
(spec/10_state.md R24, R25; spec/30_encoding.md R68, R70, R72). -/

namespace Sys2Proof.Machine

/-- The seven values of the status byte (R68). -/
inductive Status where
  | done
  | rangeRh
  | rangeT
  | rangeBoth
  | illegalOpcode
  | illegalLength
  | illegalCount
deriving DecidableEq, Repr

/-- The status byte ST (R68). -/
def Status.code : Status → Byte
  | .done => 0x00
  | .rangeRh => 0x41
  | .rangeT => 0x42
  | .rangeBoth => 0x43
  | .illegalOpcode => 0x81
  | .illegalLength => 0x82
  | .illegalCount => 0x83

/-- The status of a refused frame (R171). -/
def illegalStatus : Illegal → Status
  | .opcode => .illegalOpcode
  | .length => .illegalLength
  | .count => .illegalCount

/-- The status of a CMP.PAIR whose humidity, temperature or both are out of their domains: all violations are reported
at once (R148, R171, R176). -/
def rangeStatus (badRh badT : Bool) : Option Status :=
  match badRh, badT with
  | false, false => none
  | true, false => some .rangeRh
  | false, true => some .rangeT
  | true, true => some .rangeBoth

/-- A Boolean byte: 0x01 for true, 0x00 for false (R72). -/
def boolByte (b : Bool) : Byte := if b then 0x01 else 0x00

/-- The mask byte M: bit i is 1 when item i is available, the bits at and above the number of items are 0 (R25, R70). -/
def maskByte : List Bool → Byte
  | [] => 0
  | b :: rest => (maskByte rest <<< 1) ||| boolByte b

/-- The payload of a decoding operation: M, then the bytes of the available items only, in increasing i (R70). -/
def maskedPayload (items : List (Option Frame)) : Frame :=
  maskByte (items.map Option.isSome) :: items.flatMap (Option.getD · [])

end Sys2Proof.Machine
end

