-- ==== Sys2Proof/Machine/Operands.lean ====
section
/-! DEFINITION. The framed word as an operand and as a result: the CRC-8 codec (spec/40_crc8.md R90, R91, R97) and the
word framer's functions (spec/41_framer.md R100 to R105). -/

namespace Sys2Proof.Machine

/-- One of the eight shifts of a byte: shift left, and XOR the polynomial when bit 7 was 1 (R90). The loop is the spec's
reading of the source's parameters, marked there as general knowledge (spec/93 G1): PRESUMED, log entry 12. -/
def crcShift (crc : Byte) : Byte := if crc.getLsbD 7 then (crc <<< 1) ^^^ crcPoly else crc <<< 1

/-- A number of shifts (R90). -/
def crcShifts : Nat → Byte → Byte
  | 0, crc => crc
  | n + 1, crc => crcShifts n (crcShift crc)

/-- One byte into the register: XOR, then eight shifts (R90). -/
def crcByte (crc b : Byte) : Byte := crcShifts 8 (crc ^^^ b)

/-- The register after a byte string, started at CRC_INIT, first byte first (R90, R97). -/
def crcOver (bytes : Frame) : Byte := bytes.foldl crcByte crcInit

/-- `crc8(b0, b1)`: no final XOR, no reflection (R90). -/
def crc8 (b0 b1 : Byte) : Byte := crcOver [b0, b1]

/-- `crc8w(w)`: the high byte first (R91). -/
def crc8w (w : Word) : Byte := crc8 (hiByte w) (loByte w)

/-- A framed word is valid when its checksum byte is the checksum of its data bytes (R100). -/
def groupValid (g : FramedWord) : Bool := crc8 g.hi g.lo == g.crc

/-- `encode_word(v)` (R101). -/
def encodeWord (v : Word) : FramedWord := ⟨hiByte v, loByte v, crc8w v⟩

/-- `decode_word(g0, g1, g2)` (R102). -/
def decodeWord (g : FramedWord) : Option Word := if groupValid g then some (be16 g.hi g.lo) else none

/-- `decode_multi`: each group on its own (R105). -/
def decodeMulti (groups : List FramedWord) : List (Option Word) := groups.map decodeWord

end Sys2Proof.Machine
end

