-- ==== Sys2Proof/Machine/State.lean ====
section
/-! DEFINITION. The state of the machine as plain data, its stops, and the state after reset (spec/10_state.md R20,
R27, R29). -/

namespace Sys2Proof.Machine

/-- One thing the host does at the block's interface (R185). -/
inductive HostEvent where
  /-- A request frame sent while the block is idle; the host takes the response before it goes on (R51, R205). -/
  | request (frame : Frame)
  /-- A request frame whose operation is abandoned by the reset signal before it has answered (R30). -/
  | requestThenReset (frame : Frame)
  /-- The reset signal, asserted while the block is idle (R200). -/
  | resetSignal
  /-- The host's call of the collaborator's `init` (R186, R204). -/
  | initCollaborator (arg : VocState)
  /-- A second request frame sent while the first is being executed, by the same or by another requester (R53, R205). -/
  | overlap (first second : Frame)
deriving DecidableEq, Repr

/-- One entry of the history of the block's interface (R20). -/
inductive TraceEntry where
  /-- A request frame the block accepted. -/
  | request (frame : Frame)
  /-- The response frame to the request just before it (R61). -/
  | response (frame : Frame)
  /-- The reset signal was asserted (R200); right after a request, it abandoned that request (R30). -/
  | reset
  /-- The host called the collaborator's `init` (R204). -/
  | collaboratorInit
deriving DecidableEq, Repr

/-- The state of the machine. The block itself keeps none (R20); what there is stands at its interface, in the
collaborator and in its build. -/
structure State where
  /-- The parameters the block was built with; no step changes them (R6, R26, R203). -/
  params : Params
  /-- The model's own: what the host will do from now on, oldest first (R23, R212). Log entry 7. -/
  events : List HostEvent
  /-- The history of requests and responses, oldest first (R20). Log entry 10. -/
  trace : List TraceEntry
  /-- The collaborator's state (R27). -/
  voc : VocState
  /-- The model's own: how many free values were drawn (R30). Log entry 6. -/
  draws : Nat
deriving DecidableEq, Repr

/-- The block stops with no fault: it never halts and has no halted state (R212), and every request frame is answered
(R61). So there is no constructor: no meaning and no step can raise one (safe, log entry 9). -/
inductive Fault where
deriving DecidableEq, Repr

/-- Why the machine has no step. -/
inductive Refusal where
  /-- Raised by an arm of exec for an instruction that has no meaning yet; no arm raises it (safe). -/
  | notModelled (mnemonic : String)
  /-- Raised by the step on a request sent while another is being executed, or a second concurrent requester: the
  spec gives it no step (R53, R205, spec/93 U2 "refuse"). Safe: nothing can be proved of what follows. Log entry 9. -/
  | overlappingRequests
deriving DecidableEq, Repr

/-- The machine right after reset: no request and no response (R29, R31), the parameters at their defaults (R6, log
entry 1), the collaborator not yet initialised by the host and so in a state the spec does not specify (R204): DESIGN
CHOICE, log entry 4 (unsafe), the state with code 0. -/
def State.reset : State :=
  { params := defaultParams, events := [], trace := [], voc := ⟨0⟩, draws := 0 }

end Sys2Proof.Machine
end

