-- ==== Sys2Proof/Machine/Ops.lean ====
section
/-! DEFINITION. The operations on the state that the meanings share: answering a request, refusing one (the block's form
of taking an exception, spec/60_exceptions.md R178), and calling the collaborator (R186). -/

namespace Sys2Proof.Machine

/-- Add an entry to the interface's history (R20). -/
def State.emit (s : State) (e : TraceEntry) : State := { s with trace := s.trace ++ [e] }

/-- Emit the response frame: the status byte, then the payload (R61, `respond` of R9). -/
def State.respond (s : State) (st : Status) (payload : Frame) : State :=
  s.emit (.response (st.code :: payload))

/-- The operation ran to its end: status DONE and the payload of R73. -/
def answerDone (payload : Frame) (s : State) : Host.Outcome State Fault Refusal :=
  .next (s.respond .done payload)

/-- A non-DONE response: the status byte alone, nothing saved, nothing else changed, no return (R61, R178, R179). -/
def answerRefused (st : Status) (s : State) : Host.Outcome State Fault Refusal :=
  .next (s.respond st [])

/-- The index the collaborator returns for raw ticks, a signed integer (R124, R186). -/
def State.vocIndex (s : State) (ticks : Word) : Int :=
  (Config.vocProcess s.params.idxBits s.voc ticks).2.toInt

/-- The collaborator's state after it was called with raw ticks (R27, R124). -/
def State.afterVoc (s : State) (ticks : Word) : State :=
  { s with voc := (Config.vocProcess s.params.idxBits s.voc ticks).1 }

end Sys2Proof.Machine
end

