-- ==== Sys2Proof/Machine/Compensation.lean ====
section
/-! DEFINITION. The compensation family: CMP.RH, CMP.T, CMP.PAIR (spec/43_compensation.md R140 to R151). -/

namespace Sys2Proof.Machine

/-- A humidity input is in its domain, bounds inclusive; the check is on the signed integer as received (R141). -/
def inDomainRh (n : Field32) : Bool := decide (rhMin * physDen ≤ n.toInt ∧ n.toInt ≤ rhMax * physDen)

/-- A temperature input is in its domain, bounds inclusive (R141). -/
def inDomainT (n : Field32) : Bool := decide (tMin * physDen ≤ n.toInt ∧ n.toInt ≤ tMax * physDen)

/-- The integer nearest to a / b, halves rounding up, for b > 0: `floor(a / b + 1/2)` (R144). -/
def roundDiv (a b : Int) : Int := (2 * a + b) / (2 * b)

/-- `enc_T(n)`: the raw code nearest to the pre-image under the temperature formula (R142, R144). -/
def encT (n : Int) : Int := roundDiv (n - tOffset * physDen) tSpan

/-- `enc_RH(n)`: the raw code nearest to the pre-image under the unclamped humidity formula (R143, R144). -/
def encRh (p : Params) (n : Int) : Int := roundDiv (n - p.rhOffset * physDen) p.rhSpan

/-- The framed raw code of a temperature input (R140). The code fits 16 bits on the domain (R145). -/
def framedT (n : Field32) : Frame := (encodeWord (BitVec.ofInt 16 (encT n.toInt))).bytes

/-- The framed raw code of a humidity input (R140, R145). -/
def framedRh (p : Params) (n : Field32) : Frame := (encodeWord (BitVec.ofInt 16 (encRh p n.toInt))).bytes

/-- CMP.RH (R147). -/
def execCmpRh (nRh : Field32) (s : State) : Host.Outcome State Fault Refusal :=
  if inDomainRh nRh then answerDone (framedRh s.params nRh) s else answerRefused .rangeRh s

/-- CMP.T (R146). -/
def execCmpT (nT : Field32) (s : State) : Host.Outcome State Fault Refusal :=
  if inDomainT nT then answerDone (framedT nT) s else answerRefused .rangeT s

/-- CMP.PAIR (R148): both inputs are checked; humidity word first, temperature word second (R150); when either fails
nothing is encoded. -/
def execCmpPair (nRh nT : Field32) (s : State) : Host.Outcome State Fault Refusal :=
  match rangeStatus (!inDomainRh nRh) (!inDomainT nT) with
  | some st => answerRefused st s
  | none => answerDone (framedRh s.params nRh ++ framedT nT) s

end Sys2Proof.Machine
end

