-- ==== Sys2Proof/Machine/Conversion.lean ====
section
/-! DEFINITION. The conversion and measurement family: CNV.T, CNV.RH, CNV.GAS, MEAS.HT, MEAS.GAS (spec/42_conversion.md
R120 to R133). Physical quantities are Q65535 numerators, exact integers (R11). -/

namespace Sys2Proof.Machine

/-- `conv_T(raw)`: not clamped (R121). The formula, not the source's figure of 27.5 °C (spec/90 C1). -/
def convT (raw : Word) : Int := tSpan * raw.toNat + tOffset * physDen

/-- `rh_lin(raw)`, before clamping (R122). -/
def rhLin (p : Params) (raw : Word) : Int := p.rhSpan * raw.toNat + p.rhOffset * physDen

/-- `conv_RH(raw)`: clamped into 0 to 100 %RH, inclusive, and not flagged (R123). -/
def convRh (p : Params) (raw : Word) : Int := min (max (rhLin p raw) (rhMin * physDen)) (rhMax * physDen)

/-- CNV.T (R125). The operand is taken as already validated. -/
def execCnvT (raw : Word) (s : State) : Host.Outcome State Fault Refusal :=
  answerDone (enc32s (convT raw)) s

/-- CNV.RH (R126). -/
def execCnvRh (raw : Word) (s : State) : Host.Outcome State Fault Refusal :=
  answerDone (enc32s (convRh s.params raw)) s

/-- CNV.GAS (R127): the collaborator is called exactly once and its index returned unchanged (R124). -/
def execCnvGas (ticks : Word) (s : State) : Host.Outcome State Fault Refusal :=
  answerDone (enc32s (s.vocIndex ticks)) (s.afterVoc ticks)

/-- MEAS.HT (R130): the two quantities of one response, each on its own (R129); temperature first (R132). -/
def execMeasHt (g0 g1 : FramedWord) (s : State) : Host.Outcome State Fault Refusal :=
  answerDone
    (maskedPayload
      [(decodeWord g0).map fun raw => enc32s (convT raw),
       (decodeWord g1).map fun raw => enc32s (convRh s.params raw)]) s

/-- MEAS.GAS (R131): the collaborator is called only for a valid word (R133). -/
def execMeasGas (g : FramedWord) (s : State) : Host.Outcome State Fault Refusal :=
  match decodeWord g with
  | none => answerDone (maskedPayload [none]) s
  | some ticks => answerDone (maskedPayload [some (enc32s (s.vocIndex ticks))]) (s.afterVoc ticks)

end Sys2Proof.Machine
end

