-- ==== Sys2Proof/Machine/Crc.lean ====
section
/-! DEFINITION. The CRC family: CRC.COMPUTE and CRC.VALIDATE (spec/40_crc8.md R93, R94). -/

namespace Sys2Proof.Machine

/-- CRC.COMPUTE (R93): the checksum of the word. -/
def execCrcCompute (w : Word) (s : State) : Host.Outcome State Fault Refusal :=
  answerDone [crc8w w] s

/-- CRC.VALIDATE (R94): a mismatch is a result, not a status. -/
def execCrcValidate (g : FramedWord) (s : State) : Host.Outcome State Fault Refusal :=
  answerDone [boolByte (groupValid g)] s

end Sys2Proof.Machine
end

