-- ==== Sys2Proof/Machine/Framer.lean ====
section
/-! DEFINITION. The framer family: FRM.ENC, FRM.DEC and FRM.DECK (spec/41_framer.md R103, R104, R106). -/

namespace Sys2Proof.Machine

/-- FRM.ENC (R103): the framed word of the value. -/
def execFrmEnc (v : Word) (s : State) : Host.Outcome State Fault Refusal :=
  answerDone (encodeWord v).bytes s

/-- FRM.DEC (R104): mask bit 0, and the value only when the word is valid (R109). -/
def execFrmDec (g : FramedWord) (s : State) : Host.Outcome State Fault Refusal :=
  answerDone (maskedPayload [(decodeWord g).map bytes16]) s

/-- FRM.DECK (R106): the mask of the groups, then the values of the valid ones. A request frame carries at most KMAX
groups (R65); on a term with more, which no frame decodes to, this runs all the same: DESIGN CHOICE, log entry 13. -/
def execFrmDeck (groups : List FramedWord) (s : State) : Host.Outcome State Fault Refusal :=
  answerDone (maskedPayload ((decodeMulti groups).map (Option.map bytes16))) s

end Sys2Proof.Machine
end

