-- ==== Sys2Proof/Machine/StatusSerial.lean ====
section
/-! DEFINITION. The status and serial family: ST.DEC and SN.DEC (spec/44_status_serial.md R160 to R164). -/

namespace Sys2Proof.Machine

/-- `selftest_pass`: the word is valid and its high byte is the sentinel; the low byte is not examined (R160). -/
def selftestPass (g : FramedWord) : Bool :=
  match decodeWord g with
  | none => false
  | some v => hiByte v == selftestPassByte

/-- The mask of three words (R163). -/
def serialMask (g0 g1 g2 : FramedWord) : Byte := maskByte [groupValid g0, groupValid g1, groupValid g2]

/-- `serial(g)`: the six data bytes in wire order (R162). -/
def serialBytes (g0 g1 g2 : FramedWord) : Frame := [g0.hi, g0.lo, g1.hi, g1.lo, g2.hi, g2.lo]

/-- ST.DEC (R161): an invalid checksum is a failed self-test, not a status (R172). -/
def execStDec (g : FramedWord) (s : State) : Host.Outcome State Fault Refusal :=
  answerDone [boolByte (selftestPass g)] s

/-- SN.DEC (R163): the serial number only when all three words are valid, else the mask alone (R164). -/
def execSnDec (g0 g1 g2 : FramedWord) (s : State) : Host.Outcome State Fault Refusal :=
  if serialMask g0 g1 g2 = 0x07 then answerDone (0x07 :: serialBytes g0 g1 g2) s
  else answerDone [serialMask g0 g1 g2] s

end Sys2Proof.Machine
end

