-- ==== Sys2Proof/Machine/Dispatch.lean ====
section
/-! DEFINITION. One arm for each instruction (spec/30_encoding.md R62), each a direct call of its meaning. -/

namespace Sys2Proof.Machine

/-- Execute one decoded request (R62). -/
def exec (i : Instr) (s : State) : Host.Outcome State Fault Refusal :=
  match i with
  | .crcCompute w => Sys2Proof.Machine.execCrcCompute w s
  | .crcValidate g => Sys2Proof.Machine.execCrcValidate g s
  | .frmEnc v => Sys2Proof.Machine.execFrmEnc v s
  | .frmDec g => Sys2Proof.Machine.execFrmDec g s
  | .frmDeck groups => Sys2Proof.Machine.execFrmDeck groups s
  | .cnvT raw => Sys2Proof.Machine.execCnvT raw s
  | .cnvRh raw => Sys2Proof.Machine.execCnvRh raw s
  | .cnvGas ticks => Sys2Proof.Machine.execCnvGas ticks s
  | .measHt g0 g1 => Sys2Proof.Machine.execMeasHt g0 g1 s
  | .measGas g => Sys2Proof.Machine.execMeasGas g s
  | .cmpRh nRh => Sys2Proof.Machine.execCmpRh nRh s
  | .cmpT nT => Sys2Proof.Machine.execCmpT nT s
  | .cmpPair nRh nT => Sys2Proof.Machine.execCmpPair nRh nT s
  | .stDec g => Sys2Proof.Machine.execStDec g s
  | .snDec g0 g1 g2 => Sys2Proof.Machine.execSnDec g0 g1 g2 s

end Sys2Proof.Machine
end

