-- ==== Sys2Proof/Machine/Port.lean ====
section
/-! DEFINITION. The block's interface: what happens when the host sends a request frame, resets the block or calls the
collaborator's init (spec/60_exceptions.md R185; spec/70_reset_and_hazards.md R200 to R205). -/

namespace Sys2Proof.Machine

/-- A request frame sent while the block is idle: accepted, decoded, and executed or refused, whole (R48, R51, R74). -/
def handleRequest (frame : Frame) (s : State) : Host.Outcome State Fault Refusal :=
  match decode s.params frame with
  | .error e => answerRefused (illegalStatus e) (s.emit (.request frame))
  | .ok i => exec i (s.emit (.request frame))

/-- The collaborator's state when the operation of a request frame has run to its end. -/
def vocWhenDone (frame : Frame) (s : State) : VocState :=
  match handleRequest frame s with
  | .next t => t.voc
  | .fault _ => s.voc
  | .refused _ => s.voc

/-- A request abandoned by a reset: no response; whether the collaborator had been called is a free value (R30, spec/93
U7). Log entry 6 (safe). -/
def abandonRequest (frame : Frame) (s : State) : State :=
  { s with
    trace := s.trace ++ [.request frame, .reset]
    voc := if Config.resetAfterCall s.draws then vocWhenDone frame s else s.voc
    draws := s.draws + 1 }

/-- The host's call of the collaborator's init (R204). -/
def initCollaborator (arg : VocState) (s : State) : State :=
  { s.emit .collaboratorInit with voc := Config.vocInit arg s.voc }

/-- One action of the host (R185). The reset signal leaves parameters and collaborator alone (R201, R204). -/
def handleEvent (e : HostEvent) (s : State) : Host.Outcome State Fault Refusal :=
  match e with
  | .request frame => handleRequest frame s
  | .requestThenReset frame => .next (abandonRequest frame s)
  | .resetSignal => .next (s.emit .reset)
  | .initCollaborator arg => .next (initCollaborator arg s)
  | .overlap _ _ => .refused .overlappingRequests

/-- The block's next move: the host's next action, or nothing while the host does nothing (R31, R212: the block never
halts). DESIGN CHOICE, log entry 7 (safe): with no action left the block stays idle. -/
def advance (s : State) : Host.Outcome State Fault Refusal :=
  match s.events with
  | [] => .next s
  | e :: rest => handleEvent e { s with events := rest }

/-- The host sends one more request frame, before anything else it was going to do (R23). -/
def State.sendFirst (s : State) (frame : Frame) : State :=
  { s with events := .request frame :: s.events }

end Sys2Proof.Machine
end

