-- ==== Sys2Proof/Machine/Step.lean ====
section
/-! DEFINITION. One step of the machine: one action of the host, with the block's whole answer to it (spec/20_memory.md
R48, R51). -/

namespace Sys2Proof.Machine

/-- One step. -/
def step (s : State) : Host.Outcome State Fault Refusal := advance s

/-- The state whose very next step runs the instruction of a table word: the host sends its frame next. The block holds
no program (R23); log entry 7 says how one comes to run. -/
def State.withFetchWord (s : State) (nbits w : Nat) : State := s.sendFirst (tableFrame nbits w)

end Sys2Proof.Machine
end

