-- ==== Sys2Proof/Reference.lean ====
section
/-! DEFINITION. Formulations the spec gives beside the ones the machine runs, in which the statements are written: the
other forms of the checksum (spec/40_crc8.md R92; the table of spec/95_test_vectors.md section 2.3), the outcome of the
frame checks as R74 and R176 list them, and what it is for bytes to carry a number (R69). -/

namespace Sys2Proof.Reference

open Sys2Proof.Machine

/-! ## The checksum, three more times -/

/-- One message bit into the register (R92 a). -/
def serialBit (crc : Byte) (m : Bool) : Byte :=
  if crc.getLsbD 7 != m then (crc <<< 1) ^^^ 0x31 else crc <<< 1

/-- The checksum bit by bit, from bit 15 of the word down to bit 0 (R92 a). -/
def serialCrc (w : Word) : Byte :=
  ((List.range 16).map fun k => w.getLsbD (15 - k)).foldl serialBit 0xFF

/-- One step of the division by G(x) = 0x131: cancel the coefficient of x^(k+8) (R92 b). -/
def cancel (v : BitVec 24) (k : Nat) : BitVec 24 :=
  if v.getLsbD (k + 8) then v ^^^ (0x131#24 <<< k) else v

/-- The remainder of a 24-bit polynomial over GF(2) divided by G(x) (R92 b, R96). -/
def polyRemainder (v : BitVec 24) : Byte :=
  (((List.range 16).map fun k => 15 - k).foldl cancel v).setWidth 8

/-- The checksum as the remainder of ((w XOR 0xFF00) * x^8) divided by G(x) (R92 b). -/
def polyCrc (w : Word) : Byte := polyRemainder ((w ^^^ 0xFF00) ++ 0x00#8)

/-- Rows 0 to 3 of the table of spec/95 section 2.3. -/
def tableRows0 : List Byte :=
  [0x00, 0x31, 0x62, 0x53, 0xC4, 0xF5, 0xA6, 0x97, 0xB9, 0x88, 0xDB, 0xEA, 0x7D, 0x4C, 0x1F, 0x2E] ++
  [0x43, 0x72, 0x21, 0x10, 0x87, 0xB6, 0xE5, 0xD4, 0xFA, 0xCB, 0x98, 0xA9, 0x3E, 0x0F, 0x5C, 0x6D] ++
  [0x86, 0xB7, 0xE4, 0xD5, 0x42, 0x73, 0x20, 0x11, 0x3F, 0x0E, 0x5D, 0x6C, 0xFB, 0xCA, 0x99, 0xA8] ++
  [0xC5, 0xF4, 0xA7, 0x96, 0x01, 0x30, 0x63, 0x52, 0x7C, 0x4D, 0x1E, 0x2F, 0xB8, 0x89, 0xDA, 0xEB]

/-- Rows 4 to 7. -/
def tableRows4 : List Byte :=
  [0x3D, 0x0C, 0x5F, 0x6E, 0xF9, 0xC8, 0x9B, 0xAA, 0x84, 0xB5, 0xE6, 0xD7, 0x40, 0x71, 0x22, 0x13] ++
  [0x7E, 0x4F, 0x1C, 0x2D, 0xBA, 0x8B, 0xD8, 0xE9, 0xC7, 0xF6, 0xA5, 0x94, 0x03, 0x32, 0x61, 0x50] ++
  [0xBB, 0x8A, 0xD9, 0xE8, 0x7F, 0x4E, 0x1D, 0x2C, 0x02, 0x33, 0x60, 0x51, 0xC6, 0xF7, 0xA4, 0x95] ++
  [0xF8, 0xC9, 0x9A, 0xAB, 0x3C, 0x0D, 0x5E, 0x6F, 0x41, 0x70, 0x23, 0x12, 0x85, 0xB4, 0xE7, 0xD6]

/-- Rows 8 to B. -/
def tableRows8 : List Byte :=
  [0x7A, 0x4B, 0x18, 0x29, 0xBE, 0x8F, 0xDC, 0xED, 0xC3, 0xF2, 0xA1, 0x90, 0x07, 0x36, 0x65, 0x54] ++
  [0x39, 0x08, 0x5B, 0x6A, 0xFD, 0xCC, 0x9F, 0xAE, 0x80, 0xB1, 0xE2, 0xD3, 0x44, 0x75, 0x26, 0x17] ++
  [0xFC, 0xCD, 0x9E, 0xAF, 0x38, 0x09, 0x5A, 0x6B, 0x45, 0x74, 0x27, 0x16, 0x81, 0xB0, 0xE3, 0xD2] ++
  [0xBF, 0x8E, 0xDD, 0xEC, 0x7B, 0x4A, 0x19, 0x28, 0x06, 0x37, 0x64, 0x55, 0xC2, 0xF3, 0xA0, 0x91]

/-- Rows C to F. -/
def tableRowsC : List Byte :=
  [0x47, 0x76, 0x25, 0x14, 0x83, 0xB2, 0xE1, 0xD0, 0xFE, 0xCF, 0x9C, 0xAD, 0x3A, 0x0B, 0x58, 0x69] ++
  [0x04, 0x35, 0x66, 0x57, 0xC0, 0xF1, 0xA2, 0x93, 0xBD, 0x8C, 0xDF, 0xEE, 0x79, 0x48, 0x1B, 0x2A] ++
  [0xC1, 0xF0, 0xA3, 0x92, 0x05, 0x34, 0x67, 0x56, 0x78, 0x49, 0x1A, 0x2B, 0xBC, 0x8D, 0xDE, 0xEF] ++
  [0x82, 0xB3, 0xE0, 0xD1, 0x46, 0x77, 0x24, 0x15, 0x3B, 0x0A, 0x59, 0x68, 0xFF, 0xCE, 0x9D, 0xAC]

/-- `T[x]`, transcribed from spec/95 section 2.3. -/
def tableT (x : Byte) : Byte := (tableRows0 ++ tableRows4 ++ tableRows8 ++ tableRowsC).getD x.toNat 0

/-- The checksum by table: `T[T[0xFF XOR b0] XOR b1]` (R92 c). -/
def tableCrc (b0 b1 : Byte) : Byte := tableT (tableT (0xFF ^^^ b0) ^^^ b1)

/-! ## Framed words -/

/-- A framed word is valid: its third byte is the checksum, bit by bit, of the first two (R92 a, R100). -/
def valid (g : FramedWord) : Bool := serialCrc (g.hi ++ g.lo) == g.crc

/-- The three bytes of the framed word of a value (R66, R101). -/
def framedBytes (w : Word) : Frame := [w.extractLsb' 8 8, w.extractLsb' 0 8, serialCrc w]

/-- A corruption of a framed word: the bits set in a 24-bit pattern flipped, bit 23 the first on the wire (R66, R96). -/
def corrupt (g : FramedWord) (e : BitVec 24) : FramedWord :=
  ⟨g.hi ^^^ e.extractLsb' 16 8, g.lo ^^^ e.extractLsb' 8 8, g.crc ^^^ e.extractLsb' 0 8⟩

/-! ## Numbers in frames -/

/-- Four bytes carry an integer: they are its two's-complement form, most significant byte first (R44, R69). -/
def Carries (bytes : Frame) (n : Int) : Prop :=
  ∃ b0 b1 b2 b3 : Byte, bytes = [b0, b1, b2, b3] ∧ (b0 ++ b1 ++ b2 ++ b3 : BitVec 32).toInt = n

/-! ## Answers -/

/-- The state after a response frame, everything else unchanged (R20, R61). -/
def answered (s : State) (response : Frame) : State := { s with trace := s.trace ++ [.response response] }

/-- The state after a whole request: the host's next action is used up, the request and its response are in the history,
everything else is unchanged. -/
def served (s : State) (rest : List HostEvent) (request response : Frame) : State :=
  { s with events := rest, trace := s.trace ++ [.request request, .response response] }

/-- Operands of any other length than the opcode's are refused as ILLEGAL_LENGTH (R64, R74). -/
def OnlyLength (op : Byte) (n : Nat) : Prop :=
  ∀ (p : Params) (args : Frame), args.length ≠ n → decode p (op :: args) = .error .length

/-! ## The frame checks (R62, R74, R176) -/

/-- Column "frame length" of R62, by opcode; none for a reserved opcode byte. -/
def frameLength (op count : Nat) : Option Nat :=
  if op ∈ [0x10, 0x20, 0x30, 0x31, 0x32] then some 3
  else if op ∈ [0x11, 0x21, 0x39, 0x50] then some 4
  else if op = 0x22 then some (2 + 3 * count)
  else if op = 0x38 then some 7
  else if op ∈ [0x40, 0x41] then some 5
  else if op = 0x42 then some 9
  else if op = 0x51 then some 10
  else none

/-- The checks (1) to (5) of R176, in order: the status byte of the first that fails, none when all pass. -/
def frameCheck (kmax : Nat) (frame : Frame) : Option Byte :=
  match frame with
  | [] => some 0x82
  | op :: args =>
    match frameLength op.toNat ((args.headD 0).toNat) with
    | none => some 0x81
    | some expected =>
      if op = 0x22 ∧ args = [] then some 0x82
      else if op = 0x22 ∧ kmax < (args.headD 0).toNat then some 0x83
      else if frame.length ≠ expected then some 0x82
      else none

end Sys2Proof.Reference
end

