-- ==== Sys2Proof/Safety.lean ====
section
/-! DEFINITION. What the history of a block's interface must look like, in the terms claims use: every request is answered
once, at once, by a frame the host can cut from a byte stream by its status and mask (spec/30_encoding.md R61, R64, R68,
R70, R73). -/

namespace Sys2Proof.Machine

/-- The seven status bytes of R68, as numbers. -/
def statusBytes : List Byte := [0x00, 0x41, 0x42, 0x43, 0x81, 0x82, 0x83]

/-- `pop(M)`, the number of 1 bits (R73). -/
def popCount (m : Byte) : Nat := ((List.range 8).filter fun i => m.getLsbD i).length

/-- The length of a response frame as the host computes it: from the opcode it sent, the status byte and, for the
decoding operations, the mask byte (R61, R64, R73). -/
def responseLength (op st m : Byte) : Nat :=
  if st ≠ 0x00 then 1
  else if op ∈ [0x10, 0x11, 0x50] then 2
  else if op ∈ [0x20, 0x40, 0x41] then 4
  else if op ∈ [0x21, 0x22] then 2 + 2 * popCount m
  else if op ∈ [0x30, 0x31, 0x32] then 5
  else if op ∈ [0x38, 0x39] then 2 + 4 * popCount m
  else if op = 0x42 then 7
  else if op = 0x51 then (if m = 0x07 then 8 else 2)
  else 1

/-- A response frame has a legal status byte and the length R73 gives it. -/
def responseFits (request response : Frame) : Bool :=
  match response with
  | [] => false
  | st :: payload =>
    statusBytes.contains st && (payload.length + 1 == responseLength (request.headD 0) st (payload.headD 0))

/-- Every request of a history is followed at once by its one response, or by the reset that abandoned it, and there is
no other response (R30, R61). -/
def traceOk : List TraceEntry → Bool
  | [] => true
  | .request q :: .response r :: rest => responseFits q r && traceOk rest
  | .request _ :: .reset :: rest => traceOk rest
  | .request _ :: _ => false
  | .response _ :: _ => false
  | .reset :: rest => traceOk rest
  | .collaboratorInit :: rest => traceOk rest

/-- The invariant of the machine: admissible parameters (R7) and a history in order. -/
abbrev State.Inv (s : State) : Prop := s.params.Wf ∧ traceOk s.trace = true

end Sys2Proof.Machine
end

