-- ==== Sys2Proof/WellFormed.lean ====
section
/-! DEFINITION. Which terms of Instr a request frame can carry on a block with given parameters. -/

namespace Sys2Proof

/-- The one operand value a frame cannot carry: a count above KMAX (R65, R71). Every other operand of every
operation is legal in the frame; the compensation domains are checked by the operation (R141). -/
def WellFormed (p : Params) : Instr → Bool
  | .crcCompute _ => true
  | .crcValidate _ => true
  | .frmEnc _ => true
  | .frmDec _ => true
  | .frmDeck groups => decide (groups.length ≤ p.kmax)
  | .cnvT _ => true
  | .cnvRh _ => true
  | .cnvGas _ => true
  | .measHt _ _ => true
  | .measGas _ => true
  | .cmpRh _ => true
  | .cmpT _ => true
  | .cmpPair _ _ => true
  | .stDec _ => true
  | .snDec _ _ _ => true

end Sys2Proof
end

