-- ==== Sys2Proof/Certificates/Slice0/Obligations.lean ====
section
/-! DEFINITION. The statements about the model. Each docstring names the rule of spec/ it formalises; the statements are
written in the terms of Sys2Proof/Reference.lean, which holds the spec's other formulations, and of Sys2Proof/Safety.lean. -/

open Sys2Proof Sys2Proof.Machine Sys2Proof.Reference

/-! ## Request frames -/

/-- 30_encoding sections 2 and 3: the decoder reads back every instruction a frame can carry, every operand bit kept. -/
def Obligations.DecodeReadsBackEveryEncodedInstruction : Prop :=
  ∀ (p : Params) (i : Instr), p.Wf → WellFormed p i = true → decode p (encode i) = .ok i

/-- 30_encoding section 6: an accepted frame is the one frame of the instruction read from it, and that instruction is
well formed; so no two frames mean the same instruction. -/
def Obligations.AcceptedFrameIsItsInstructionsEncoding : Prop :=
  ∀ (p : Params) (frame : Frame) (i : Instr),
    decode p frame = .ok i → encode i = frame ∧ WellFormed p i = true

/-- Frames written out byte by byte in 95_test_vectors sections 2 to 6. -/
def Obligations.FramesOfTheVectorsDecode : Prop :=
  decode defaultParams [0x10, 0xBE, 0xEF] = .ok (.crcCompute 0xBEEF) ∧
  decode defaultParams [0x21, 0xBE, 0xEF, 0x92] = .ok (.frmDec ⟨0xBE, 0xEF, 0x92⟩) ∧
  decode defaultParams [0x22, 0x01, 0xBE, 0xEF, 0x92] = .ok (.frmDeck [⟨0xBE, 0xEF, 0x92⟩]) ∧
  decode defaultParams [0x38, 0x80, 0x00, 0xA2, 0x80, 0x00, 0xA2] =
    .ok (.measHt ⟨0x80, 0x00, 0xA2⟩ ⟨0x80, 0x00, 0xA2⟩) ∧
  decode defaultParams [0x41, 0xFF, 0xD3, 0x00, 0x2D] = .ok (.cmpT (BitVec.ofInt 32 (-2949075))) ∧
  decode defaultParams [0x51, 0x12, 0x34, 0x37, 0xAB, 0xCD, 0x6F, 0xBE, 0xEF, 0x92] =
    .ok (.snDec ⟨0x12, 0x34, 0x37⟩ ⟨0xAB, 0xCD, 0x6F⟩ ⟨0xBE, 0xEF, 0x92⟩)

/-- A step runs the decoded instruction: the host's request is used up and stands in the history, and the rest is exec's.
-/
def Obligations.StepRunsTheDecodedInstruction : Prop :=
  ∀ (s : State) (frame : Frame) (rest : List HostEvent) (i : Instr),
    s.events = .request frame :: rest → decode s.params frame = .ok i →
    step s = exec i { s with events := rest, trace := s.trace ++ [.request frame] }

/-- The very next step runs the instruction of a table word, on a block with the default parameters (log entry 8). -/
def Obligations.NextStepRunsATableWord : Prop :=
  ∀ (s : State) (nbits w : Nat) (i : Instr),
    s.params = defaultParams → decodeTableWord nbits w = some i →
    step (s.withFetchWord nbits w) = exec i { s with trace := s.trace ++ [.request (tableFrame nbits w)] }

/-- R176, R178: a frame that fails a check is answered by the status byte of the first failing check, in the order of
R176, and has no other effect: the collaborator's state and everything else is unchanged. -/
def Obligations.RefusedFrameAnswersFirstFailingCheck : Prop :=
  ∀ (s : State) (frame : Frame) (rest : List HostEvent) (status : Byte),
    s.events = .request frame :: rest → frameCheck s.params.kmax frame = some status →
    step s = .next (served s rest frame [status])

/-- 30_encoding section 6: a frame that passes the checks is executed, as the one instruction it encodes. -/
def Obligations.CheckedFrameIsExecuted : Prop :=
  ∀ (s : State) (frame : Frame) (rest : List HostEvent),
    s.events = .request frame :: rest → frameCheck s.params.kmax frame = none →
    ∃ i : Instr, encode i = frame ∧ WellFormed s.params i = true ∧
      step s = exec i { s with events := rest, trace := s.trace ++ [.request frame] }

/-- 30_encoding section 2: 241 of the 256 opcode bytes are reserved, and a frame that begins with one is answered 0x81,
whatever follows, with no other effect. -/
def Obligations.ReservedOpcodeBytesAreRefused : Prop :=
  ((List.range 256).filter fun op => (frameLength op 0).isNone).length = 241 ∧
  ∀ (s : State) (op : Byte) (args : Frame) (rest : List HostEvent),
    s.events = .request (op :: args) :: rest → frameLength op.toNat 0 = none →
    step s = .next (served s rest (op :: args) [0x81])

/-! ## The fifteen operations

Each statement gives the operation's frame, the refusal of every other length, and the state it answers from every state:
the response added to the history and, but for the two gas operations, nothing else changed. -/

/-- R93. -/
def Obligations.CrcComputeAnswersTheChecksum : Prop :=
  ∀ (w : Word) (s : State),
    (∀ p, decode p [0x10, w.extractLsb' 8 8, w.extractLsb' 0 8] = .ok (.crcCompute w)) ∧ OnlyLength 0x10 2 ∧
    exec (.crcCompute w) s = .next (answered s [0x00, serialCrc w])

/-- R94. -/
def Obligations.CrcValidateAnswersWhetherTheChecksumMatches : Prop :=
  ∀ (g : FramedWord) (s : State),
    (∀ p, decode p [0x11, g.hi, g.lo, g.crc] = .ok (.crcValidate g)) ∧ OnlyLength 0x11 3 ∧
    exec (.crcValidate g) s = .next (answered s [0x00, if serialCrc (g.hi ++ g.lo) = g.crc then 0x01 else 0x00])

/-- R103. -/
def Obligations.FrmEncAnswersTheFramedWord : Prop :=
  ∀ (v : Word) (s : State),
    (∀ p, decode p [0x20, v.extractLsb' 8 8, v.extractLsb' 0 8] = .ok (.frmEnc v)) ∧ OnlyLength 0x20 2 ∧
    exec (.frmEnc v) s =
      .next (answered s [0x00, v.extractLsb' 8 8, v.extractLsb' 0 8, serialCrc v])

/-- R104. -/
def Obligations.FrmDecAnswersTheValueOnlyWhenValid : Prop :=
  ∀ (g : FramedWord) (s : State),
    (∀ p, decode p [0x21, g.hi, g.lo, g.crc] = .ok (.frmDec g)) ∧ OnlyLength 0x21 3 ∧
    exec (.frmDec g) s =
      .next (answered s (if valid g then [0x00, 0x01, g.hi, g.lo] else [0x00, 0x00]))

/-- R106, at every count from 0 to KMAX; 8 is the largest KMAX can be. -/
def Obligations.FrmDeckAnswersTheValidGroups : Prop :=
  ∀ (groups : List FramedWord) (s : State), groups.length ≤ 8 →
    (∀ p : Params, groups.length ≤ p.kmax →
      decode p (0x22 :: BitVec.ofNat 8 groups.length :: groups.flatMap fun g => [g.hi, g.lo, g.crc]) =
        .ok (.frmDeck groups)) ∧
    (∀ p : Params, decode p [0x22] = .error .length) ∧
    (∀ (p : Params) (k : Byte) (body : Frame), p.kmax < k.toNat → decode p (0x22 :: k :: body) = .error .count) ∧
    (∀ (p : Params) (k : Byte) (body : Frame), k.toNat ≤ p.kmax → body.length ≠ 3 * k.toNat →
      decode p (0x22 :: k :: body) = .error .length) ∧
    (groups.length ≤ s.params.kmax → ∃ m : Byte,
      exec (.frmDeck groups) s =
        .next (answered s (0x00 :: m :: (groups.filter valid).flatMap fun g => [g.hi, g.lo])) ∧
      ∀ i : Nat, m.getLsbD i = (groups[i]?.any valid))

/-- R125, R121. -/
def Obligations.CnvTAnswersTheTemperature : Prop :=
  ∀ (raw : Word) (s : State),
    (∀ p, decode p [0x30, raw.extractLsb' 8 8, raw.extractLsb' 0 8] = .ok (.cnvT raw)) ∧ OnlyLength 0x30 2 ∧
    ∃ bytes, exec (.cnvT raw) s = .next (answered s (0x00 :: bytes)) ∧ Carries bytes (175 * raw.toNat - 2949075)

/-- R126, with the parameters of the block. -/
def Obligations.CnvRhAnswersTheClampedHumidity : Prop :=
  ∀ (raw : Word) (s : State),
    (∀ p, decode p [0x31, raw.extractLsb' 8 8, raw.extractLsb' 0 8] = .ok (.cnvRh raw)) ∧ OnlyLength 0x31 2 ∧
    ∃ bytes, exec (.cnvRh raw) s = .next (answered s (0x00 :: bytes)) ∧
      Carries bytes (min (max (s.params.rhSpan * raw.toNat + s.params.rhOffset * 65535) 0) 6553500)

/-- R127: the collaborator is called once, its state becomes the new one, its index is returned unchanged. -/
def Obligations.CnvGasCallsTheCollaboratorOnce : Prop :=
  ∀ (ticks : Word) (s : State), s.params.Wf →
    (∀ p, decode p [0x32, ticks.extractLsb' 8 8, ticks.extractLsb' 0 8] = .ok (.cnvGas ticks)) ∧ OnlyLength 0x32 2 ∧
    ∃ bytes,
      exec (.cnvGas ticks) s =
        .next { answered s (0x00 :: bytes) with voc := (Config.vocProcess s.params.idxBits s.voc ticks).1 } ∧
      Carries bytes (Config.vocProcess s.params.idxBits s.voc ticks).2.toInt

/-- R130: the two quantities, each available exactly when its own word is valid; temperature first. -/
def Obligations.MeasHtAnswersEachQuantityOnItsOwn : Prop :=
  ∀ (g0 g1 : FramedWord) (s : State),
    (∀ p, decode p [0x38, g0.hi, g0.lo, g0.crc, g1.hi, g1.lo, g1.crc] = .ok (.measHt g0 g1)) ∧ OnlyLength 0x38 6 ∧
    ∃ temperature humidity : Frame,
      exec (.measHt g0 g1) s =
        .next (answered s (0x00 :: ((if valid g0 then 0x01 else 0x00) ||| (if valid g1 then 0x02 else 0x00)) ::
          (temperature ++ humidity))) ∧
      (if valid g0 then Carries temperature (175 * ((g0.hi ++ g0.lo : BitVec 16)).toNat - 2949075)
        else temperature = []) ∧
      (if valid g1 then
          Carries humidity
            (min (max (s.params.rhSpan * ((g1.hi ++ g1.lo : BitVec 16)).toNat + s.params.rhOffset * 65535) 0) 6553500)
        else humidity = [])

/-- R131, R133: the collaborator is called once for a valid word and not at all for an invalid one. -/
def Obligations.MeasGasCallsTheCollaboratorOnlyForAValidWord : Prop :=
  ∀ (g : FramedWord) (s : State), s.params.Wf →
    (∀ p, decode p [0x39, g.hi, g.lo, g.crc] = .ok (.measGas g)) ∧ OnlyLength 0x39 3 ∧
    (valid g = false → exec (.measGas g) s = .next (answered s [0x00, 0x00])) ∧
    (valid g = true →
      ∃ bytes,
        exec (.measGas g) s =
          .next { answered s (0x00 :: 0x01 :: bytes) with
            voc := (Config.vocProcess s.params.idxBits s.voc (g.hi ++ g.lo)).1 } ∧
        Carries bytes (Config.vocProcess s.params.idxBits s.voc (g.hi ++ g.lo)).2.toInt)

/-- R147, with the parameters of the block: the framed code nearest to the pre-image, or the one byte 0x41. -/
def Obligations.CmpRhAnswersTheFramedCodeOrRange : Prop :=
  ∀ (n : Field32) (s : State), s.params.Wf →
    (∀ (p : Params) (b0 b1 b2 b3 : Byte), decode p [0x40, b0, b1, b2, b3] = .ok (.cmpRh (b0 ++ b1 ++ b2 ++ b3))) ∧
    OnlyLength 0x40 4 ∧
    (n.toInt < 0 ∨ 6553500 < n.toInt → exec (.cmpRh n) s = .next (answered s [0x41])) ∧
    (0 ≤ n.toInt ∧ n.toInt ≤ 6553500 →
      ∃ code : Word,
        exec (.cmpRh n) s = .next (answered s (0x00 :: framedBytes code)) ∧
        (code.toNat : Int) =
          (2 * (n.toInt - s.params.rhOffset * 65535) + s.params.rhSpan) / (2 * s.params.rhSpan))

/-- R146: the framed code nearest to the pre-image, or the one byte 0x42. -/
def Obligations.CmpTAnswersTheFramedCodeOrRange : Prop :=
  ∀ (n : Field32) (s : State),
    (∀ (p : Params) (b0 b1 b2 b3 : Byte), decode p [0x41, b0, b1, b2, b3] = .ok (.cmpT (b0 ++ b1 ++ b2 ++ b3))) ∧
    OnlyLength 0x41 4 ∧
    (n.toInt < -2949075 ∨ 8519550 < n.toInt → exec (.cmpT n) s = .next (answered s [0x42])) ∧
    (-2949075 ≤ n.toInt ∧ n.toInt ≤ 8519550 →
      ∃ code : Word,
        exec (.cmpT n) s = .next (answered s (0x00 :: framedBytes code)) ∧
        (code.toNat : Int) = (2 * (n.toInt + 2949075) + 175) / 350)

/-- R148, R150: both inputs are checked; when either is out of its domain nothing is encoded; else the humidity word and
then the temperature word, each as CMP.RH and CMP.T encode it. -/
def Obligations.CmpPairAnswersBothWordsOrOneRange : Prop :=
  ∀ (n m : Field32) (s : State), s.params.Wf →
    (∀ (p : Params) (b0 b1 b2 b3 b4 b5 b6 b7 : Byte), decode p [0x42, b0, b1, b2, b3, b4, b5, b6, b7] =
      .ok (.cmpPair (b0 ++ b1 ++ b2 ++ b3) (b4 ++ b5 ++ b6 ++ b7))) ∧
    OnlyLength 0x42 8 ∧
    (if 0 ≤ n.toInt ∧ n.toInt ≤ 6553500 then
      if -2949075 ≤ m.toInt ∧ m.toInt ≤ 8519550 then
        ∃ humidity temperature : Frame,
          exec (.cmpPair n m) s = .next (answered s (0x00 :: (humidity ++ temperature))) ∧
          exec (.cmpRh n) s = .next (answered s (0x00 :: humidity)) ∧
          exec (.cmpT m) s = .next (answered s (0x00 :: temperature))
      else exec (.cmpPair n m) s = .next (answered s [0x42])
    else if -2949075 ≤ m.toInt ∧ m.toInt ≤ 8519550 then exec (.cmpPair n m) s = .next (answered s [0x41])
    else exec (.cmpPair n m) s = .next (answered s [0x43]))

/-- R161, R160: pass exactly for a valid word whose high byte is 0xD4. -/
def Obligations.StDecAnswersPassOnlyForTheSentinel : Prop :=
  ∀ (g : FramedWord) (s : State),
    (∀ p, decode p [0x50, g.hi, g.lo, g.crc] = .ok (.stDec g)) ∧ OnlyLength 0x50 3 ∧
    exec (.stDec g) s = .next (answered s [0x00, if valid g = true ∧ g.hi = 0xD4 then 0x01 else 0x00])

/-- R163, R164: the six bytes only when all three words are valid; else the mask of the valid words and no byte. -/
def Obligations.SnDecAnswersTheSerialOnlyWhenAllAreValid : Prop :=
  ∀ (g0 g1 g2 : FramedWord) (s : State),
    (∀ p, decode p [0x51, g0.hi, g0.lo, g0.crc, g1.hi, g1.lo, g1.crc, g2.hi, g2.lo, g2.crc] =
      .ok (.snDec g0 g1 g2)) ∧
    OnlyLength 0x51 9 ∧
    ((valid g0 && valid g1 && valid g2) = true →
      exec (.snDec g0 g1 g2) s =
        .next (answered s [0x00, 0x07, g0.hi, g0.lo, g1.hi, g1.lo, g2.hi, g2.lo])) ∧
    ((valid g0 && valid g1 && valid g2) = false →
      ∃ m : Byte, exec (.snDec g0 g1 g2) s = .next (answered s [0x00, m]) ∧
        ∀ i : Nat, m.getLsbD i = ([g0, g1, g2][i]?.any valid))

/-! ## The machine -/

/-- 10_state section 7: exactly two operations write the collaborator's state, CNV.GAS always and MEAS.GAS for a valid
word; and the frame of all fifteen: one response is added to the history, nothing else changes. -/
def Obligations.OnlyGasOperationsWriteTheCollaborator : Prop :=
  ∀ (i : Instr) (s t : State), exec i s = .next t →
    t.params = s.params ∧ t.events = s.events ∧ t.draws = s.draws ∧
    (∃ response, t.trace = s.trace ++ [.response response]) ∧
    t.voc = match i with
      | .cnvGas ticks => (Config.vocProcess s.params.idxBits s.voc ticks).1
      | .measGas g => if valid g then (Config.vocProcess s.params.idxBits s.voc (g.hi ++ g.lo)).1 else s.voc
      | _ => s.voc

/-- R61, R68: every request frame, legal or not, is answered by exactly one response frame, whose byte 0 is one of the
seven status bytes and which is that one byte when it is not DONE. -/
def Obligations.EveryFrameIsAnsweredByOneResponse : Prop :=
  ∀ (s : State) (frame : Frame) (rest : List HostEvent), s.events = .request frame :: rest →
    ∃ (status : Byte) (payload : Frame) (voc : VocState),
      step s = .next { served s rest frame (status :: payload) with voc := voc } ∧
      status ∈ ([0x00, 0x41, 0x42, 0x43, 0x81, 0x82, 0x83] : List Byte) ∧
      (status ≠ 0x00 → payload = [])

/-- R73 and 30_encoding section 3: the response has the length the host computes from the opcode it sent, the status and the mask. -/
def Obligations.ResponseLengthFollowsStatusAndMask : Prop :=
  ∀ (s : State) (frame : Frame) (rest : List HostEvent), s.params.Wf → s.events = .request frame :: rest →
    ∃ (response : Frame) (voc : VocState),
      step s = .next { served s rest frame response with voc := voc } ∧ responseFits frame response = true

/-- 20_memory section 1, sizes: an accepted frame has at most 2 + 3 KMAX bytes, and no response has more than 2 + 2 KMAX
bytes, or more than the ten of MEAS.HT where KMAX is 3 (log entry 15: the model's reading). -/
def Obligations.FramesAndResponsesAreBounded : Prop :=
  ∀ (s : State) (frame : Frame) (rest : List HostEvent), s.params.Wf → s.events = .request frame :: rest →
    (∀ i, decode s.params frame = .ok i → frame.length ≤ 2 + 3 * s.params.kmax) ∧
    ∃ (response : Frame) (voc : VocState),
      step s = .next { served s rest frame response with voc := voc } ∧
      response.length ≤ max 10 (2 + 2 * s.params.kmax)

/-- R7, R30, R61, R73: every step keeps the parameters admissible and the history in order, every request followed at once
by the one response of its length or by the reset that abandoned it (the history's form: log entries 10 and 17). -/
def Obligations.StepKeepsTheInvariant : Prop :=
  ∀ s t : State, s.Inv → step s = .next t → t.Inv

/-- The invariant holds after reset, with the default parameters (DESIGN CHOICE, log entry 1). -/
def Obligations.ResetMeetsTheInvariant : Prop := State.reset.Inv

/-- 10_state section 6 and 70_reset_and_hazards section 1: the parameters are static, whatever the host does. -/
def Obligations.StepKeepsTheParameters : Prop :=
  ∀ s t : State, step s = .next t → t.params = s.params

/-- 10_state section 1 and 70_reset_and_hazards section 1: what a request is answered, and what it does to the
collaborator, depends on the frame, the parameters and, for the two gas operations only, the collaborator's state: not on
the history, not on what the host does next, not on the free values. -/
def Obligations.ResponseDependsOnTheRequestAlone : Prop :=
  ∀ (s1 s2 t1 t2 : State) (frame : Frame) (rest1 rest2 : List HostEvent),
    s1.params = s2.params → s1.events = .request frame :: rest1 → s2.events = .request frame :: rest2 →
    step s1 = .next t1 → step s2 = .next t2 →
    ((frame.head? ≠ some 0x32 ∧ frame.head? ≠ some 0x39) ∨ s1.voc = s2.voc) →
    t1.trace.getLast? = t2.trace.getLast? ∧ (s1.voc = s2.voc → t1.voc = t2.voc)

/-- 20_memory section 5 and 70_reset_and_hazards section 4: from every state, a run of the frames the host sends answers
each one once, in the order they were sent, and ends idle. -/
def Obligations.RunAnswersRequestsInOrder : Prop :=
  ∀ (frames : List Frame) (s : State), s.events = frames.map .request →
    ∃ (responses : List Frame) (voc : VocState), responses.length = frames.length ∧
      Host.Core.run Sys2Proof.core frames.length s =
        .next ({ s with
          events := []
          trace := s.trace ++ (frames.zip responses).flatMap fun qr => [.request qr.1, .response qr.2]
          voc := voc } : State)

/-- 60_exceptions section 3, nesting and return: after a refused request, the next one is answered exactly as it would
have been had the refused one never been sent, and the collaborator ends in the same state. -/
def Obligations.RefusedRequestLeavesNoTrace : Prop :=
  ∀ (s t u v : State) (bad next : Frame) (rest : List HostEvent) (status : Byte),
    s.events = .request bad :: .request next :: rest → frameCheck s.params.kmax bad = some status →
    step s = .next t → step t = .next u → step { s with events := .request next :: rest } = .next v →
    u.trace.getLast? = v.trace.getLast? ∧ u.voc = v.voc ∧ u.events = v.events

/-- 70_reset_and_hazards section 1: the reset signal leaves parameters and collaborator as they are and answers nothing.
That it adds one entry to the history, and leaves the history and the host's remaining actions in place, is the model's
choice (DESIGN CHOICE, log entry 17). -/
def Obligations.ResetSignalChangesNothingElse : Prop :=
  ∀ (s : State) (rest : List HostEvent), s.events = .resetSignal :: rest →
    step s = .next { s with events := rest, trace := s.trace ++ [.reset] }

/-- R30: a request abandoned by a reset is not answered; the collaborator's state afterwards is the one before or, for a
gas operation that calls the collaborator, the one its call leaves. It holds for every value of Config.resetAfterCall. -/
def Obligations.AbandonedRequestIsNotAnswered : Prop :=
  ∀ (s : State) (frame : Frame) (rest : List HostEvent), s.events = .requestThenReset frame :: rest →
    ∃ (t : State) (added : List TraceEntry), step s = .next t ∧ t.params = s.params ∧
      t.trace = s.trace ++ added ∧ (∀ response : Frame, .response response ∉ added) ∧
      (t.voc = s.voc ∨
        ∃ ticks : Word, t.voc = (Config.vocProcess s.params.idxBits s.voc ticks).1 ∧
          (decode s.params frame = .ok (.cnvGas ticks) ∨
            ∃ g : FramedWord, decode s.params frame = .ok (.measGas g) ∧ valid g = true ∧ ticks = g.hi ++ g.lo))

/-- 70_reset_and_hazards section 1, the collaborator: the host's call of init changes the collaborator's state and
nothing of the block (log entry 5: what it changes it to is open). -/
def Obligations.HostInitialisesTheCollaborator : Prop :=
  ∀ (s : State) (arg : VocState) (rest : List HostEvent), s.events = .initCollaborator arg :: rest →
    step s = .next { s with
      events := rest, trace := s.trace ++ [.collaboratorInit], voc := Config.vocInit arg s.voc }

/-- 70_reset_and_hazards section 2: a request sent while another is executed has no step (log entry 9: the model's
refusal). -/
def Obligations.OverlappingRequestsHaveNoStep : Prop :=
  ∀ (s : State) (first second : Frame) (rest : List HostEvent), s.events = .overlap first second :: rest →
    step s = .refused .overlappingRequests

/-- 10_state section 8, idle: a block the host sends nothing to stays as it is (log entry 7: the model's choice). -/
def Obligations.IdleBlockStaysIdle : Prop :=
  ∀ s : State, s.events = [] → step s = .next s

/-- 10_state section 8 and 00_scope section 3: after reset there is no request and no response. A reset leaves the
parameters as they are; that State.reset is a block built with their defaults is the model's choice (DESIGN CHOICE, log
entry 1). -/
def Obligations.ResetLeavesAnEmptyHistoryAndTheDefaults : Prop :=
  State.reset.trace = [] ∧ State.reset.params.rhSpan = 125 ∧ State.reset.params.rhOffset = -6 ∧
  State.reset.params.kmax = 8 ∧ State.reset.params.idxBits = 32

/-! ## The checksum and the framer -/

/-- R92: the three other formulations give the checksum of R90 for all 65536 words, and the table is the register after
eight shifts. -/
def Obligations.ChecksumFormulationsAgree : Prop :=
  (∀ w : Word, crc8w w = serialCrc w ∧ crc8w w = polyCrc w ∧
    crc8w w = tableCrc (w.extractLsb' 8 8) (w.extractLsb' 0 8)) ∧
  ∀ x : Byte, tableT x = crcShifts 8 x

/-- R97: the register over all three bytes of a framed word is zero exactly when the word is valid. -/
def Obligations.ResidueIsZeroExactlyWhenValid : Prop :=
  ∀ g : FramedWord, crcOver [g.hi, g.lo, g.crc] = 0x00 ↔ crc8 g.hi g.lo = g.crc

/-- 40_crc8 section 1, error detection: a corruption of a valid framed word goes undetected exactly when it is divisible
by the generator; the example of part (c) is. -/
def Obligations.UndetectedCorruptionsAreTheMultiples : Prop :=
  (∀ (g : FramedWord) (e : BitVec 24), groupValid g = true →
    (groupValid (corrupt g e) = true ↔ polyRemainder e = 0x00)) ∧
  polyRemainder 0x800023 = 0x00

/-- 40_crc8 section 1, error detection (a): one, two or three flipped bits of a valid framed word make it invalid. -/
def Obligations.UpToThreeFlippedBitsAreDetected : Prop :=
  ∀ (g : FramedWord) (i j k : Fin 24), groupValid g = true →
    decodeWord (corrupt g ((1#24 <<< i.val) ||| (1#24 <<< j.val) ||| (1#24 <<< k.val))) = none

/-- 40_crc8 section 1, error detection (b): a burst within eight consecutive bits makes a valid framed word invalid. -/
def Obligations.BurstsWithinEightBitsAreDetected : Prop :=
  ∀ (g : FramedWord) (pattern : Byte) (offset : Fin 17), groupValid g = true → pattern ≠ 0 →
    decodeWord (corrupt g (pattern.setWidth 24 <<< offset.val)) = none

/-- 40_crc8 section 1, error detection (d): for every checksum and every high byte there is exactly one low byte, so each
checksum is the checksum of exactly 256 words. -/
def Obligations.EachChecksumHasOneWordPerHighByte : Prop :=
  ∀ b0 c : Byte, ∃ b1 : Byte, crc8 b0 b1 = c ∧ ∀ b : Byte, crc8 b0 b = c → b = b1

/-- R107, R110: decoding and encoding are inverse bijections between the values and the valid framed words. -/
def Obligations.FramingRoundTrips : Prop :=
  (∀ v : Word, decodeWord (encodeWord v) = some v) ∧
  ∀ (g : FramedWord) (v : Word), decodeWord g = some v → encodeWord v = g

/-- 41_framer section 2, partial-failure independence: one of the framed words of a multi-word read corrupted in a
detectable way and all others intact, that one alone is unavailable and all others decode to their values. For more
words than the block's KMAX, which no request frame brings, this is the model's choice (DESIGN CHOICE, log entry 13). -/
def Obligations.CorruptedGroupLeavesTheOthers : Prop :=
  ∀ (vs : List Word) (i : Nat) (h : i < vs.length) (e : BitVec 24) (s : State),
    vs.length ≤ 8 → polyRemainder e ≠ 0x00 →
    ∃ m : Byte,
      exec (.frmDeck ((vs.map encodeWord).set i (corrupt (encodeWord vs[i]) e))) s =
        .next (answered s (0x00 :: m :: (vs.eraseIdx i).flatMap fun v => [v.extractLsb' 8 8, v.extractLsb' 0 8])) ∧
      ∀ j : Nat, m.getLsbD j = (decide (j < vs.length) && decide (j ≠ i))

/-- R77: FRM.DEC is FRM.DECK of one group; CRC.VALIDATE is true exactly when FRM.DEC has the word; MEAS.HT is FRM.DECK of
two groups and the two conversions. -/
def Obligations.OperationIdentities : Prop :=
  (∀ (g : FramedWord) (s : State), exec (.frmDec g) s = exec (.frmDeck [g]) s) ∧
  (∀ (g : FramedWord) (s : State),
    exec (.crcValidate g) s = .next (answered s [0x00, 0x01]) ↔
      ∃ value : Frame, exec (.frmDec g) s = .next (answered s (0x00 :: 0x01 :: value))) ∧
  ∀ (g0 g1 : FramedWord) (s : State), ∃ (m : Byte) (values0 values1 temperature humidity : Frame),
    exec (.frmDeck [g0, g1]) s = .next (answered s (0x00 :: m :: (values0 ++ values1))) ∧
    exec (.measHt g0 g1) s = .next (answered s (0x00 :: m :: (temperature ++ humidity))) ∧
    (if m.getLsbD 0 then ∃ v : Word, values0 = bytes16 v ∧ exec (.cnvT v) s = .next (answered s (0x00 :: temperature))
      else values0 = [] ∧ temperature = []) ∧
    (if m.getLsbD 1 then ∃ v : Word, values1 = bytes16 v ∧ exec (.cnvRh v) s = .next (answered s (0x00 :: humidity))
      else values1 = [] ∧ humidity = [])

/-! ## The conversions and their inverses -/

/-- 42_conversion section 1, temperature: strictly increasing, from exactly -45 °C to exactly 130 °C. -/
def Obligations.TemperatureMapIsStrictlyIncreasing : Prop :=
  (∀ a b : Word, a < b → convT a < convT b) ∧ convT 0 = -2949075 ∧ convT 0xFFFF = 8519550

/-- 42_conversion section 1, clamping with the default parameters: the two thresholds. -/
def Obligations.HumidityClampThresholds : Prop :=
  ∀ raw : Word, convRh defaultParams raw =
    if raw.toNat ≤ 3145 then 0 else if raw.toNat ≤ 55573 then 125 * raw.toNat - 393210 else 6553500

/-- 42_conversion section 1, ranges: the clamped humidity is between 0 and 100 %RH, the unclamped one fits 32 signed
bits, and two raw codes share a humidity only when both are clamped to the same bound. -/
def Obligations.HumidityRangeAndCollisions : Prop :=
  ∀ (p : Params) (a b : Word), p.Wf →
    0 ≤ convRh p a ∧ convRh p a ≤ 6553500 ∧ -2147483648 ≤ rhLin p a ∧ rhLin p a ≤ 2147483647 ∧
    (a ≠ b → convRh p a = convRh p b →
      (rhLin p a ≤ 0 ∧ rhLin p b ≤ 0) ∨ (6553500 ≤ rhLin p a ∧ 6553500 ≤ rhLin p b))

/-- 43_compensation section 1, rounding: the nearest integer, halves rounding up. -/
def Obligations.RoundingIsToNearestHalvesUp : Prop :=
  ∀ a b q : Int, 0 < b → (roundDiv a b = q ↔ 2 * b * q ≤ 2 * a + b ∧ 2 * a + b < 2 * b * (q + 1))

/-- 43_compensation section 1, the code fits: on the domains the raw codes are 16-bit values, and with the default
parameters the humidity codes run from 3146 to 55574. -/
def Obligations.CompensationCodesFitSixteenBits : Prop :=
  (∀ n : Int, -2949075 ≤ n → n ≤ 8519550 → 0 ≤ encT n ∧ encT n ≤ 65535) ∧
  (∀ (p : Params) (n : Int), p.Wf → 0 ≤ n → n ≤ 6553500 → 0 ≤ encRh p n ∧ encRh p n ≤ 65535) ∧
  (∀ n : Int, 0 ≤ n → n ≤ 6553500 → 3146 ≤ encRh defaultParams n ∧ encRh defaultParams n ≤ 55574)

/-- 43_compensation section 1, inverse (a): decoding an encoded temperature is at most 87 off. -/
def Obligations.TemperatureSurvivesEncoding : Prop :=
  ∀ n : Int, -2949075 ≤ n → n ≤ 8519550 →
    -87 ≤ convT (BitVec.ofInt 16 (encT n)) - n ∧ convT (BitVec.ofInt 16 (encT n)) - n ≤ 87

/-- 43_compensation section 1, inverse (b): decoding an encoded humidity is off by at most half of RH_SPAN, clamped or
not. -/
def Obligations.HumiditySurvivesEncoding : Prop :=
  ∀ (p : Params) (n : Int), p.Wf → 0 ≤ n → n ≤ 6553500 →
    2 * |rhLin p (BitVec.ofInt 16 (encRh p n)) - n| ≤ p.rhSpan ∧
    2 * |convRh p (BitVec.ofInt 16 (encRh p n)) - n| ≤ p.rhSpan

/-- 43_compensation section 1, inverse (c): encoding a decoded raw code gives it back, for humidity where it is not
clamped. -/
def Obligations.EncodingInvertsConversion : Prop :=
  (∀ raw : Word, encT (convT raw) = raw.toNat) ∧
  ∀ (p : Params) (raw : Word), p.Wf → 0 ≤ rhLin p raw → rhLin p raw ≤ 6553500 →
    encRh p (convRh p raw) = raw.toNat

/-! ## The record of an abandoned request -/

/-- The model's choice (DESIGN CHOICE, log entry 17): a request abandoned by a reset (10_state section 8) and the reset
itself each leave one entry in the history, and the host's remaining actions stay. -/
def Obligations.AbandonedRequestStaysInTheHistory : Prop :=
  ∀ (s : State) (frame : Frame) (rest : List HostEvent), s.events = .requestThenReset frame :: rest →
    ∃ t : State, step s = .next t ∧ t.events = rest ∧ t.trace = s.trace ++ [.request frame, .reset]
end

