-- ==== Sys2Proof/Laws/Bytes.lean ====
section
/-! SUPPORT. Byte order: splitting a word or a field into bytes and assembling it again are inverse (R43, R44). -/

namespace Sys2Proof

@[simp] theorem be16_hiByte_loByte (w : Word) : be16 (hiByte w) (loByte w) = w := by
  apply BitVec.eq_of_getLsbD_eq
  intro i hi
  simp [be16, hiByte, loByte]
  grind

@[simp] theorem hiByte_be16 (b0 b1 : Byte) : hiByte (be16 b0 b1) = b0 := by
  apply BitVec.eq_of_getLsbD_eq
  intro i hi
  simp [be16, hiByte]
  grind

@[simp] theorem loByte_be16 (b0 b1 : Byte) : loByte (be16 b0 b1) = b1 := by
  apply BitVec.eq_of_getLsbD_eq
  intro i hi
  simp [be16, loByte]
  grind

/-- `be16(b0, b1) = b0 * 256 + b1` (R9). -/
theorem be16_toNat (b0 b1 : Byte) : (be16 b0 b1).toNat = b0.toNat * 256 + b1.toNat := by
  simp only [be16, BitVec.toNat_append]
  rw [← Nat.shiftLeft_add_eq_or_of_lt b1.isLt, Nat.shiftLeft_eq]

@[simp] theorem bytes32_be32 (b0 b1 b2 b3 : Byte) : bytes32 (be32 b0 b1 b2 b3) = [b0, b1, b2, b3] := by
  simp only [bytes32, be32, List.cons.injEq, and_true]
  refine ⟨?_, ?_, ?_, ?_⟩ <;> (apply BitVec.eq_of_getLsbD_eq; intro i hi; simp; grind)

/-- The four bytes of a field assemble to the field. -/
@[simp] theorem be32_bytes32 (v : Field32) :
    be32 (v.extractLsb' 24 8) (v.extractLsb' 16 8) (v.extractLsb' 8 8) (v.extractLsb' 0 8) = v := by
  apply BitVec.eq_of_getLsbD_eq
  intro i hi
  simp [be32]
  grind

end Sys2Proof
end

