-- ==== Sys2Proof/Laws/PerInstr.lean ====
section
/-! SUPPORT. Said per instruction, about its encoding: the frame begins with the row's opcode byte and has the length
the row's format requires (R62, R63, R64). -/

namespace Sys2Proof.Laws.FrameShape

/-- Every opcode byte selects its own row (R62). -/
theorem opcodeOf_code (o : Opcode) : opcodeOf o.code = some o := by
  cases o <;> decide

/-- The count the frame of an instruction carries; it matters to format K only (R65). -/
def count : Instr → Nat
  | .frmDeck groups => groups.length
  | _ => 0

/-- The frame of an instruction begins with its opcode byte, which selects its row, and has the row's length. -/
def Statement (i : Instr) : Prop :=
  (encode i).head? = some i.opcode.code ∧ opcodeOf i.opcode.code = some i.opcode ∧
    (encode i).length = i.opcode.format.frameLength (count i)

theorem crcCompute (w : Word) : Statement (.crcCompute w) := ⟨rfl, opcodeOf_code _, rfl⟩

theorem crcValidate (g : FramedWord) : Statement (.crcValidate g) := ⟨rfl, opcodeOf_code _, rfl⟩

theorem frmEnc (v : Word) : Statement (.frmEnc v) := ⟨rfl, opcodeOf_code _, rfl⟩

theorem frmDec (g : FramedWord) : Statement (.frmDec g) := ⟨rfl, opcodeOf_code _, rfl⟩

/-- The image of a list of groups has three bytes for each. -/
theorem length_flatMap_bytes (groups : List FramedWord) : (groups.flatMap FramedWord.bytes).length = 3 * groups.length := by
  induction groups with
  | nil => rfl
  | cons g gs ih => simp [FramedWord.bytes, ih]; omega

theorem frmDeck (groups : List FramedWord) : Statement (.frmDeck groups) := by
  refine ⟨rfl, opcodeOf_code _, ?_⟩
  show (groups.flatMap FramedWord.bytes).length + 1 + 1 = 2 + 3 * groups.length
  rw [length_flatMap_bytes]
  omega

theorem cnvT (raw : Word) : Statement (.cnvT raw) := ⟨rfl, opcodeOf_code _, rfl⟩

theorem cnvRh (raw : Word) : Statement (.cnvRh raw) := ⟨rfl, opcodeOf_code _, rfl⟩

theorem cnvGas (ticks : Word) : Statement (.cnvGas ticks) := ⟨rfl, opcodeOf_code _, rfl⟩

theorem measHt (g0 g1 : FramedWord) : Statement (.measHt g0 g1) := ⟨rfl, opcodeOf_code _, rfl⟩

theorem measGas (g : FramedWord) : Statement (.measGas g) := ⟨rfl, opcodeOf_code _, rfl⟩

theorem cmpRh (nRh : Field32) : Statement (.cmpRh nRh) := ⟨rfl, opcodeOf_code _, rfl⟩

theorem cmpT (nT : Field32) : Statement (.cmpT nT) := ⟨rfl, opcodeOf_code _, rfl⟩

theorem cmpPair (nRh nT : Field32) : Statement (.cmpPair nRh nT) := ⟨rfl, opcodeOf_code _, rfl⟩

theorem stDec (g : FramedWord) : Statement (.stDec g) := ⟨rfl, opcodeOf_code _, rfl⟩

theorem snDec (g0 g1 g2 : FramedWord) : Statement (.snDec g0 g1 g2) := ⟨rfl, opcodeOf_code _, rfl⟩

end Sys2Proof.Laws.FrameShape
end

