-- ==== Sys2Proof/Laws/Operands.lean ====
section
/-! SUPPORT. What each operand form, the checksum register, the mask byte and a carried number are, said once. -/

namespace Sys2Proof

/-! ### Operand forms: when a reader answers, and what it answers -/

/-- A K-group operand is read exactly when it has 3 K bytes (R46, R47). -/
theorem readGroups_eq_none : ∀ (k : Nat) (f : Frame), readGroups k f = none ↔ f.length ≠ 3 * k
  | 0, [] => by simp [readGroups]
  | 0, _ :: _ => by simp [readGroups]
  | k + 1, [] => by simp [readGroups]
  | k + 1, [_] => by simp [readGroups]; omega
  | k + 1, [_, _] => by simp [readGroups]; omega
  | k + 1, _ :: _ :: _ :: r => by simp [readGroups, readGroups_eq_none k r]; omega

/-- The groups read are K, and their bytes are the operand's. -/
theorem readGroups_eq_some :
    ∀ (k : Nat) (f : Frame) (gs : List FramedWord), readGroups k f = some gs →
      gs.length = k ∧ gs.flatMap FramedWord.bytes = f
  | 0, [], gs, h => by simp [readGroups] at h; subst h; simp
  | 0, _ :: _, gs, h => by simp [readGroups] at h
  | k + 1, [], gs, h => by simp [readGroups] at h
  | k + 1, [_], gs, h => by simp [readGroups] at h
  | k + 1, [_, _], gs, h => by simp [readGroups] at h
  | k + 1, a :: b :: c :: r, gs, h => by
    simp [readGroups] at h
    obtain ⟨t, ht, rfl⟩ := h
    simp [FramedWord.bytes, readGroups_eq_some k r t ht]

/-- Reading the image of groups gives the groups. -/
@[simp] theorem readGroups_bytes (gs : List FramedWord) :
    readGroups gs.length (gs.flatMap FramedWord.bytes) = some gs := by
  induction gs with
  | nil => rfl
  | cons g gs ih => simp [readGroups, FramedWord.bytes, ih]

theorem readW_eq_none (f : Frame) : readW f = none ↔ f.length ≠ 2 := by
  rcases f with _ | ⟨_, _ | ⟨_, _ | _⟩⟩ <;> simp [readW]

theorem readG_eq_none (f : Frame) : readG f = none ↔ f.length ≠ 3 := by
  rcases f with _ | ⟨_, _ | ⟨_, _ | ⟨_, _ | _⟩⟩⟩ <;> simp [readG]

theorem readN_eq_none (f : Frame) : readN f = none ↔ f.length ≠ 4 := by
  rcases f with _ | ⟨_, _ | ⟨_, _ | ⟨_, _ | ⟨_, _ | _⟩⟩⟩⟩ <;> simp [readN]

/-- A row's opcode byte is the byte that selects it (R62). -/
theorem code_of_opcodeOf {b : Byte} {o : Opcode} (h : opcodeOf b = some o) : o.code = b := by
  simpa using List.find?_some h

/-- Operands are accepted exactly when their reader answers. -/
theorem withOperands_eq_ok {α : Type} {mk : α → Instr} {x : Option α} {i : Instr}
    (h : withOperands mk x = .ok i) : ∃ a, x = some a ∧ mk a = i := by
  cases x <;> simp [withOperands] at h ⊢; exact h

namespace Machine

/-! ### The checksum register -/

/-- A shift of the register is linear over XOR (R96). -/
theorem crcShift_xor (a b : Byte) : crcShift (a ^^^ b) = crcShift a ^^^ crcShift b := by
  unfold crcShift
  cases ha : a.getLsbD 7 <;> cases hb : b.getLsbD 7 <;>
    simp only [BitVec.getLsbD_xor, ha, hb, BitVec.shiftLeft_xor_distrib] <;> grind

/-- Any number of shifts is linear over XOR. -/
theorem crcShifts_xor (n : Nat) (a b : Byte) : crcShifts n (a ^^^ b) = crcShifts n a ^^^ crcShifts n b := by
  induction n generalizing a b with
  | zero => rfl
  | succ n ih => simp [crcShifts, crcShift_xor, ih]

/-- The register after one more byte (R90). -/
theorem crcOver_append (bytes : Frame) (b : Byte) : crcOver (bytes ++ [b]) = crcShifts 8 (crcOver bytes ^^^ b) := by
  simp [crcOver, crcByte]

/-- A framed word decodes to its value or to nothing, as its checksum says (R102). -/
theorem decodeWord_cases (g : FramedWord) :
    (groupValid g = true ∧ decodeWord g = some (be16 g.hi g.lo)) ∨ (groupValid g = false ∧ decodeWord g = none) := by
  unfold decodeWord
  cases groupValid g <;> simp

/-! ### The mask byte -/

/-- Bit i of the mask is item i, and the bits at and above the number of items are 0 (R70). -/
theorem maskByte_getLsbD (bs : List Bool) (h : bs.length ≤ 8) (i : Nat) :
    (maskByte bs).getLsbD i = bs.getD i false := by
  have low : ∀ (bs : List Bool) (i : Nat), i < 8 → (maskByte bs).getLsbD i = bs.getD i false := by
    intro bs
    induction bs with
    | nil => intro i _; simp [maskByte]
    | cons b bs ih =>
      intro i hi
      cases i with
      | zero => cases b <;> simp [maskByte, boolByte]
      | succ i => cases b <;> simp [maskByte, boolByte, ih i (by omega)] <;> omega
  by_cases hi : i < 8
  · exact low bs i hi
  · rw [BitVec.getLsbD_of_ge _ _ (by omega), List.getD_eq_default _ _ (by omega)]

/-! ### Numbers -/

/-- The four bytes of an integer that fits 32 signed bits are its two's-complement form (R69). -/
theorem toInt_ofInt32 (n : Int) (h1 : -2147483648 ≤ n) (h2 : n ≤ 2147483647) : (BitVec.ofInt 32 n).toInt = n := by
  rw [BitVec.toInt_ofInt]
  exact Int.bmod_eq_of_le (n := n) (m := 2 ^ 32) (by omega) (by omega)

end Machine

end Sys2Proof
end

