-- ==== Sys2Proof/Laws/State.lean ====
section
/-! SUPPORT. For every update of the state, the value of every field after it. -/

namespace Sys2Proof.Machine

/-! ### Adding an entry to the history -/

@[simp] theorem State.emit_params (s : State) (e : TraceEntry) :
    (s.emit e).params = s.params := rfl
@[simp] theorem State.emit_events (s : State) (e : TraceEntry) :
    (s.emit e).events = s.events := rfl
@[simp] theorem State.emit_trace (s : State) (e : TraceEntry) :
    (s.emit e).trace = s.trace ++ [e] := rfl
@[simp] theorem State.emit_voc (s : State) (e : TraceEntry) :
    (s.emit e).voc = s.voc := rfl
@[simp] theorem State.emit_draws (s : State) (e : TraceEntry) :
    (s.emit e).draws = s.draws := rfl

/-! ### Emitting a response -/

@[simp] theorem State.respond_params (s : State) (st : Status) (payload : Frame) :
    (s.respond st payload).params = s.params := rfl
@[simp] theorem State.respond_events (s : State) (st : Status) (payload : Frame) :
    (s.respond st payload).events = s.events := rfl
@[simp] theorem State.respond_trace (s : State) (st : Status) (payload : Frame) :
    (s.respond st payload).trace = s.trace ++ [.response (st.code :: payload)] := rfl
@[simp] theorem State.respond_voc (s : State) (st : Status) (payload : Frame) :
    (s.respond st payload).voc = s.voc := rfl
@[simp] theorem State.respond_draws (s : State) (st : Status) (payload : Frame) :
    (s.respond st payload).draws = s.draws := rfl

/-! ### Calling the collaborator's process -/

@[simp] theorem State.afterVoc_params (s : State) (ticks : Word) :
    (s.afterVoc ticks).params = s.params := rfl
@[simp] theorem State.afterVoc_events (s : State) (ticks : Word) :
    (s.afterVoc ticks).events = s.events := rfl
@[simp] theorem State.afterVoc_trace (s : State) (ticks : Word) :
    (s.afterVoc ticks).trace = s.trace := rfl
@[simp] theorem State.afterVoc_voc (s : State) (ticks : Word) :
    (s.afterVoc ticks).voc = (Config.vocProcess s.params.idxBits s.voc ticks).1 := rfl
@[simp] theorem State.afterVoc_draws (s : State) (ticks : Word) :
    (s.afterVoc ticks).draws = s.draws := rfl

/-! ### A request abandoned by a reset -/

@[simp] theorem abandonRequest_params (s : State) (frame : Frame) :
    (abandonRequest frame s).params = s.params := rfl
@[simp] theorem abandonRequest_events (s : State) (frame : Frame) :
    (abandonRequest frame s).events = s.events := rfl
@[simp] theorem abandonRequest_trace (s : State) (frame : Frame) :
    (abandonRequest frame s).trace = s.trace ++ [.request frame, .reset] := rfl
@[simp] theorem abandonRequest_voc (s : State) (frame : Frame) :
    (abandonRequest frame s).voc = if Config.resetAfterCall s.draws then vocWhenDone frame s else s.voc := rfl
@[simp] theorem abandonRequest_draws (s : State) (frame : Frame) :
    (abandonRequest frame s).draws = s.draws + 1 := rfl

/-! ### The host's call of the collaborator's init -/

@[simp] theorem initCollaborator_params (s : State) (arg : VocState) :
    (initCollaborator arg s).params = s.params := rfl
@[simp] theorem initCollaborator_events (s : State) (arg : VocState) :
    (initCollaborator arg s).events = s.events := rfl
@[simp] theorem initCollaborator_trace (s : State) (arg : VocState) :
    (initCollaborator arg s).trace = s.trace ++ [.collaboratorInit] := rfl
@[simp] theorem initCollaborator_voc (s : State) (arg : VocState) :
    (initCollaborator arg s).voc = Config.vocInit arg s.voc := rfl
@[simp] theorem initCollaborator_draws (s : State) (arg : VocState) :
    (initCollaborator arg s).draws = s.draws := rfl

/-! ### The host sends one more request first -/

@[simp] theorem State.sendFirst_params (s : State) (frame : Frame) :
    (s.sendFirst frame).params = s.params := rfl
@[simp] theorem State.sendFirst_events (s : State) (frame : Frame) :
    (s.sendFirst frame).events = .request frame :: s.events := rfl
@[simp] theorem State.sendFirst_trace (s : State) (frame : Frame) :
    (s.sendFirst frame).trace = s.trace := rfl
@[simp] theorem State.sendFirst_voc (s : State) (frame : Frame) :
    (s.sendFirst frame).voc = s.voc := rfl
@[simp] theorem State.sendFirst_draws (s : State) (frame : Frame) :
    (s.sendFirst frame).draws = s.draws := rfl

/-! ### The very next step runs a table word -/

@[simp] theorem State.withFetchWord_params (s : State) (nbits w : Nat) :
    (s.withFetchWord nbits w).params = s.params := rfl
@[simp] theorem State.withFetchWord_events (s : State) (nbits w : Nat) :
    (s.withFetchWord nbits w).events = .request (tableFrame nbits w) :: s.events := rfl
@[simp] theorem State.withFetchWord_trace (s : State) (nbits w : Nat) :
    (s.withFetchWord nbits w).trace = s.trace := rfl
@[simp] theorem State.withFetchWord_voc (s : State) (nbits w : Nat) :
    (s.withFetchWord nbits w).voc = s.voc := rfl
@[simp] theorem State.withFetchWord_draws (s : State) (nbits w : Nat) :
    (s.withFetchWord nbits w).draws = s.draws := rfl

end Sys2Proof.Machine
end

