-- ==== Sys2Proof/Laws/Ops.lean ====
section
/-! SUPPORT. What each shared operation can answer, said once; what an executed instruction can do to the state. -/

namespace Sys2Proof.Machine

/-- A DONE answer is a next state: the response is added to the history and nothing else changes. -/
theorem answerDone_eq (payload : Frame) (s : State) :
    answerDone payload s = .next { s with trace := s.trace ++ [.response (0x00 :: payload)] } := rfl

/-- A refusal is a next state: the one status byte is added to the history and nothing else changes. -/
theorem answerRefused_eq (st : Status) (s : State) :
    answerRefused st s = .next { s with trace := s.trace ++ [.response [st.code]] } := rfl

/-- What executing an instruction can do: it answers a next state in which one response is added to the history and
the collaborator may have been called; parameters, host events and the draw counter stay. -/
theorem exec_cases (i : Instr) (s : State) :
    ∃ response voc, exec i s = .next { s with trace := s.trace ++ [.response response], voc := voc } := by
  cases i with
  | measGas g =>
    simp only [exec, execMeasGas]
    split <;> exact ⟨_, _, rfl⟩
  | cmpRh n =>
    simp only [exec, execCmpRh]
    split <;> exact ⟨_, _, rfl⟩
  | cmpT n =>
    simp only [exec, execCmpT]
    split <;> exact ⟨_, _, rfl⟩
  | cmpPair n m =>
    simp only [exec, execCmpPair]
    split <;> exact ⟨_, _, rfl⟩
  | snDec g0 g1 g2 =>
    simp only [exec, execSnDec]
    split <;> exact ⟨_, _, rfl⟩
  | _ => exact ⟨_, _, rfl⟩

/-- What a request frame can do: it is answered by one response, whatever its bytes. -/
theorem handleRequest_cases (frame : Frame) (s : State) :
    ∃ response voc, handleRequest frame s =
      .next { s with trace := s.trace ++ [.request frame, .response response], voc := voc } := by
  unfold handleRequest
  split
  · next e _ => exact ⟨[(illegalStatus e).code], s.voc, by simp [answerRefused_eq, State.emit]⟩
  · next i _ =>
    obtain ⟨r, v, h⟩ := exec_cases i (s.emit (.request frame))
    exact ⟨r, v, by rw [h]; simp [State.emit]⟩

/-- With no host action left the block stays idle (log entry 7). -/
theorem step_idle {s : State} (h : s.events = []) : step s = .next s := by
  simp [step, advance, h]

/-- A step is the host's next action. -/
theorem step_event {s : State} {e : HostEvent} {rest : List HostEvent} (h : s.events = e :: rest) :
    step s = handleEvent e { s with events := rest } := by
  simp [step, advance, h]

end Sys2Proof.Machine
end

