-- ==== Sys2Proof/Tests/Slice0.lean ====
section
/-! SUPPORT. Tests. Expected frames are those of spec/95_test_vectors.md, whose sections each test names. Then, for
every statement with hypotheses, a state and operands that meet them. -/

namespace Sys2Proof.Tests

set_option maxRecDepth 20000

open Sys2Proof.Machine Sys2Proof.Reference

/-- A block just out of reset, to which the host will send these frames. -/
def sending (frames : List Frame) : State := { State.reset with events := frames.map .request }

/-- The response a step put last in the history. -/
def lastResponse : Host.Outcome State Fault Refusal → Option Frame
  | .next s => match s.trace.getLast? with
    | some (.response r) => some r
    | _ => none
  | _ => none

/-- The response of a block just out of reset to one frame. -/
def reply (frame : Frame) : Option Frame := lastResponse (step (sending [frame]))

/-- A decoded frame, with the default parameters. -/
def read (frame : Frame) : Option Instr := (decode defaultParams frame).toOption

/-! ## WellFormed -/

theorem test_nine_groups_are_ill_formed :
    WellFormed defaultParams (.frmDeck (List.replicate 9 ⟨0x00, 0x00, 0x81⟩)) = false := by decide

theorem test_eight_groups_are_well_formed :
    WellFormed defaultParams (.frmDeck (List.replicate 8 ⟨0x00, 0x00, 0x81⟩)) = true := by decide

/-! ## Frames, byte by byte from R62 and R63 -/

theorem test_decode_crcCompute : read [0x10, 0x12, 0x34] = some (.crcCompute 0x1234) := by decide
theorem test_decode_crcValidate : read [0x11, 0xBE, 0xEF, 0x92] = some (.crcValidate ⟨0xBE, 0xEF, 0x92⟩) := by decide
theorem test_decode_frmEnc : read [0x20, 0xFF, 0x00] = some (.frmEnc 0xFF00) := by decide
theorem test_decode_frmDec : read [0x21, 0xBE, 0xEF, 0x93] = some (.frmDec ⟨0xBE, 0xEF, 0x93⟩) := by decide
theorem test_decode_frmDeck :
    read [0x22, 0x02, 0xBE, 0xEF, 0x93, 0x12, 0x34, 0x36] =
      some (.frmDeck [⟨0xBE, 0xEF, 0x93⟩, ⟨0x12, 0x34, 0x36⟩]) := by decide
theorem test_decode_cnvT : read [0x30, 0x66, 0x66] = some (.cnvT 0x6666) := by decide
theorem test_decode_cnvRh : read [0x31, 0x0C, 0x4A] = some (.cnvRh 0x0C4A) := by decide
theorem test_decode_cnvGas : read [0x32, 0x75, 0x30] = some (.cnvGas 0x7530) := by decide
theorem test_decode_measHt :
    read [0x38, 0x66, 0x66, 0x93, 0x72, 0xB0, 0xDC] = some (.measHt ⟨0x66, 0x66, 0x93⟩ ⟨0x72, 0xB0, 0xDC⟩) := by decide
theorem test_decode_measGas : read [0x39, 0x75, 0x30, 0x08] = some (.measGas ⟨0x75, 0x30, 0x08⟩) := by decide
theorem test_decode_cmpRh : read [0x40, 0x00, 0x31, 0xFF, 0xCE] = some (.cmpRh 3276750) := by decide
theorem test_decode_cmpT : read [0x41, 0xFF, 0xD3, 0x00, 0x2D] = some (.cmpT (BitVec.ofInt 32 (-2949075))) := by decide
theorem test_decode_cmpPair :
    read [0x42, 0x00, 0x31, 0xFF, 0xCE, 0x00, 0x18, 0xFF, 0xE7] = some (.cmpPair 3276750 1638375) := by decide
theorem test_decode_stDec : read [0x50, 0xD4, 0x00, 0xC6] = some (.stDec ⟨0xD4, 0x00, 0xC6⟩) := by decide
theorem test_decode_snDec :
    read [0x51, 0x12, 0x34, 0x37, 0xAB, 0xCD, 0x6F, 0xBE, 0xEF, 0x92] =
      some (.snDec ⟨0x12, 0x34, 0x37⟩ ⟨0xAB, 0xCD, 0x6F⟩ ⟨0xBE, 0xEF, 0x92⟩) := by decide

theorem test_encode_cmpPair :
    encode (.cmpPair 6553501 (BitVec.ofInt 32 (-2949076))) =
      [0x42, 0x00, 0x63, 0xFF, 0x9D, 0xFF, 0xD3, 0x00, 0x2C] := by decide
theorem test_tableWord_frmDeck : decodeTableWord 8 0x22 = some (.frmDeck []) := by decide
theorem test_tableWord_measHt : decodeTableWord 8 0x38 = some (.measHt ⟨0, 0, 0⟩ ⟨0, 0, 0⟩) := by decide

/-! ## Responses (sections 2 to 6 of spec/95) -/

theorem test_crcCompute : reply [0x10, 0xBE, 0xEF] = some [0x00, 0x92] := by decide
theorem test_crcCompute_byte_order : reply [0x10, 0x01, 0x00] = some [0x00, 0x75] := by decide
theorem test_crcValidate_true : reply [0x11, 0xBE, 0xEF, 0x92] = some [0x00, 0x01] := by decide
theorem test_crcValidate_false : reply [0x11, 0x00, 0x00, 0x00] = some [0x00, 0x00] := by decide
theorem test_frmEnc : reply [0x20, 0xFF, 0xFF] = some [0x00, 0xFF, 0xFF, 0xAC] := by decide
theorem test_frmDec_invalid : reply [0x21, 0xBE, 0xEF, 0x93] = some [0x00, 0x00] := by decide
theorem test_frmDec_undetected : reply [0x21, 0x3E, 0xEF, 0xB1] = some [0x00, 0x01, 0x3E, 0xEF] := by decide
theorem test_frmDeck_middle_invalid :
    reply [0x22, 0x03, 0xBE, 0xEF, 0x92, 0x00, 0x00, 0x00, 0x12, 0x34, 0x37] =
      some [0x00, 0x05, 0xBE, 0xEF, 0x12, 0x34] := by decide
theorem test_frmDeck_eight :
    reply [0x22, 0x08, 0x00, 0x00, 0x81, 0x00, 0x01, 0xB0, 0x01, 0x00, 0x75, 0x80, 0x00, 0xA2, 0xFF, 0xFF, 0xAC,
        0xBE, 0xEF, 0x92, 0x12, 0x34, 0x37, 0xAB, 0xCD, 0x6F] =
      some [0x00, 0xFF, 0x00, 0x00, 0x00, 0x01, 0x01, 0x00, 0x80, 0x00, 0xFF, 0xFF, 0xBE, 0xEF, 0x12, 0x34,
        0xAB, 0xCD] := by decide
theorem test_cnvT_negative : reply [0x30, 0x00, 0x00] = some [0x00, 0xFF, 0xD3, 0x00, 0x2D] := by decide
theorem test_cnvT_fixture : reply [0x30, 0x80, 0x00] = some [0x00, 0x00, 0x2A, 0x80, 0x2D] := by decide
theorem test_cnvRh_first_unclamped : reply [0x31, 0x0C, 0x4A] = some [0x00, 0x00, 0x00, 0x00, 0x28] := by decide
theorem test_cnvRh_clamped_high : reply [0x31, 0xD9, 0x16] = some [0x00, 0x00, 0x63, 0xFF, 0x9C] := by decide
theorem test_measHt_temperature_invalid :
    reply [0x38, 0x80, 0x00, 0xA3, 0x80, 0x00, 0xA2] = some [0x00, 0x02, 0x00, 0x38, 0x80, 0x06] := by decide
theorem test_measHt_both :
    reply [0x38, 0x00, 0x00, 0x81, 0xFF, 0xFF, 0xAC] =
      some [0x00, 0x03, 0xFF, 0xD3, 0x00, 0x2D, 0x00, 0x63, 0xFF, 0x9C] := by decide
theorem test_cmpT_rounds_up : reply [0x41, 0x00, 0x00, 0x00, 0x71] = some [0x00, 0x41, 0xD5, 0x0D] := by decide
theorem test_cmpT_one_below : reply [0x41, 0xFF, 0xD3, 0x00, 0x2C] = some [0x42] := by decide
theorem test_cmpRh_lower_bound : reply [0x40, 0x00, 0x00, 0x00, 0x00] = some [0x00, 0x0C, 0x4A, 0xD3] := by decide
theorem test_cmpRh_one_above : reply [0x40, 0x00, 0x63, 0xFF, 0x9D] = some [0x41] := by decide
theorem test_cmpPair :
    reply [0x42, 0x00, 0x31, 0xFF, 0xCE, 0x00, 0x18, 0xFF, 0xE7] =
      some [0x00, 0x72, 0xB0, 0xDC, 0x66, 0x66, 0x93] := by decide
theorem test_cmpPair_both_out :
    reply [0x42, 0x00, 0x63, 0xFF, 0x9D, 0xFF, 0xD3, 0x00, 0x2C] = some [0x43] := by decide
theorem test_stDec_low_byte_ignored : reply [0x50, 0xD4, 0xFF, 0x6A] = some [0x00, 0x01] := by decide
theorem test_stDec_sentinel_in_low_byte : reply [0x50, 0x00, 0xD4, 0x41] = some [0x00, 0x00] := by decide
theorem test_snDec :
    reply [0x51, 0x12, 0x34, 0x37, 0xAB, 0xCD, 0x6F, 0xBE, 0xEF, 0x92] =
      some [0x00, 0x07, 0x12, 0x34, 0xAB, 0xCD, 0xBE, 0xEF] := by decide
theorem test_snDec_middle_invalid :
    reply [0x51, 0x12, 0x34, 0x37, 0xAB, 0xCD, 0x6E, 0xBE, 0xEF, 0x92] = some [0x00, 0x05] := by decide

/-- Section 4.3, with the stand-in collaborator that answers 100 for this input. -/
theorem test_cnvGas_stand_in (h : Config.vocProcess 32 ⟨0⟩ 0x7530 = (⟨0⟩, 100)) :
    reply [0x32, 0x75, 0x30] = some [0x00, 0x00, 0x00, 0x00, 0x64] := by
  show lastResponse (.next ((sending []).emit (.request _) |>.afterVoc 0x7530 |>.respond .done
    (enc32s (Config.vocProcess 32 ⟨0⟩ 0x7530).2.toInt))) = _
  rw [h]
  decide

/-- Section 4.3: an invalid word, the collaborator not called. -/
theorem test_measGas_invalid : reply [0x39, 0x75, 0x30, 0x00] = some [0x00, 0x00] := by decide

/-! ## Refused frames (section 7) -/

theorem test_empty_frame : reply [] = some [0x82] := by decide
theorem test_unknown_opcode_wins : reply [0x12] = some [0x81] := by decide
theorem test_count_wins_over_length : reply [0x22, 0x09, 0x00] = some [0x83] := by decide
theorem test_length_wins_over_range :
    reply [0x42, 0x00, 0x63, 0xFF, 0x9D, 0x00, 0x18, 0xFF] = some [0x82] := by decide

/-! ## Witnesses: what meets the hypotheses of the statements -/

/-- Parameters at the other end of what R7 admits: the largest span, the smallest KMAX, the narrowest index. -/
def widest : Params := { rhSpan := 8191, rhOffset := -8090, kmax := 3, idxBits := 1 }

/-- The smallest humidity span R7 admits. -/
def narrowest : Params := { rhSpan := 103, rhOffset := -2, kmax := 3, idxBits := 1 }

theorem witness_params : defaultParams.Wf ∧ widest.Wf ∧ narrowest.Wf := by decide

/-- DecodeReadsBackEveryEncodedInstruction, at the smallest and the largest count. -/
theorem witness_decodeReadsBack :
    defaultParams.Wf ∧ WellFormed defaultParams (.frmDeck []) = true ∧
    WellFormed defaultParams (.frmDeck (List.replicate 8 ⟨0, 0, 0⟩)) = true := by decide

/-- AcceptedFrameIsItsInstructionsEncoding, and StepRunsTheDecodedInstruction. -/
theorem witness_stepRuns :
    (sending [[0x30, 0x80, 0x00]]).events = .request [0x30, 0x80, 0x00] :: [] ∧
    decode (sending [[0x30, 0x80, 0x00]]).params [0x30, 0x80, 0x00] = .ok (.cnvT 0x8000) := ⟨rfl, rfl⟩

/-- NextStepRunsATableWord. -/
theorem witness_tableWord :
    State.reset.params = defaultParams ∧ decodeTableWord 8 0x51 = some (.snDec ⟨0, 0, 0⟩ ⟨0, 0, 0⟩ ⟨0, 0, 0⟩) := by
  decide

/-- RefusedFrameAnswersFirstFailingCheck, one frame for each check of R176. -/
theorem witness_refused :
    (sending [[0x22]]).events = .request [0x22] :: [] ∧
    frameCheck 8 [] = some 0x82 ∧ frameCheck 8 [0x60, 0x00] = some 0x81 ∧ frameCheck 8 [0x22] = some 0x82 ∧
    frameCheck 8 [0x22, 0x09] = some 0x83 ∧ frameCheck 8 [0x21, 0xBE, 0xEF] = some 0x82 ∧
    frameCheck 8 [0x22, 0x08] = some 0x82 := by decide

/-- CheckedFrameIsExecuted, at counts 0 and 8. -/
theorem witness_checked :
    (sending [[0x22, 0x00]]).events = .request [0x22, 0x00] :: [] ∧ frameCheck 8 [0x22, 0x00] = none ∧
    frameCheck 8 (0x22 :: 0x08 :: List.replicate 24 0x00) = none := by decide

/-- ReservedOpcodeBytesAreRefused, at bytes on both sides of a legal one. -/
theorem witness_reserved :
    (sending [[0x23, 0x00]]).events = .request [0x23, 0x00] :: [] ∧ frameLength 0x23 0 = none ∧
    frameLength 0x0F 0 = none ∧ frameLength 0x12 0 = none ∧ frameLength 0xFF 0 = none := by decide

/-- FrmDeckAnswersTheValidGroups: its exec clause at KMAX groups, its frame clauses at counts 0, KMAX and KMAX + 1, and a
wrong length. -/
theorem witness_frmDeck :
    (List.replicate 8 (⟨0, 0, 0⟩ : FramedWord)).length ≤ 8 ∧
    (List.replicate 8 (⟨0, 0, 0⟩ : FramedWord)).length ≤ State.reset.params.kmax ∧
    ([] : List FramedWord).length ≤ defaultParams.kmax ∧
    defaultParams.kmax < (0x09 : Byte).toNat ∧ (0x08 : Byte).toNat ≤ defaultParams.kmax ∧
    ([0x00] : Frame).length ≠ 3 * (0x08 : Byte).toNat := by decide

/-- MeasGasCallsTheCollaboratorOnlyForAValidWord and CnvGasCallsTheCollaboratorOnce: both clauses. -/
theorem witness_measGas :
    State.reset.params.Wf ∧ valid ⟨0x75, 0x30, 0x08⟩ = true ∧ valid ⟨0x75, 0x30, 0x00⟩ = false := by decide

/-- CmpRhAnswersTheFramedCodeOrRange and CmpPairAnswersBothWordsOrOneRange: the humidity bounds from both sides. -/
theorem witness_cmpRh :
    State.reset.params.Wf ∧ (BitVec.ofInt 32 (-1)).toInt < 0 ∧ 0 ≤ (0 : Field32).toInt ∧
    (6553500 : Field32).toInt ≤ 6553500 ∧ 6553500 < (6553501 : Field32).toInt := by decide

/-- CmpTAnswersTheFramedCodeOrRange: the temperature bounds from both sides. -/
theorem witness_cmpT :
    (BitVec.ofInt 32 (-2949076)).toInt < -2949075 ∧ -2949075 ≤ (BitVec.ofInt 32 (-2949075)).toInt ∧
    (8519550 : Field32).toInt ≤ 8519550 ∧ 8519550 < (8519551 : Field32).toInt := by decide

/-- SnDecAnswersTheSerialOnlyWhenAllAreValid: both clauses. -/
theorem witness_snDec :
    (valid ⟨0x12, 0x34, 0x37⟩ && valid ⟨0xAB, 0xCD, 0x6F⟩ && valid ⟨0xBE, 0xEF, 0x92⟩) = true ∧
    (valid ⟨0x12, 0x34, 0x37⟩ && valid ⟨0xAB, 0xCD, 0x6E⟩ && valid ⟨0xBE, 0xEF, 0x92⟩) = false := by decide

/-- OnlyGasOperationsWriteTheCollaborator. -/
theorem witness_exec : ∃ t, exec (.cnvGas 0x7530) State.reset = .next t := ⟨_, rfl⟩

/-- EveryFrameIsAnsweredByOneResponse, ResponseLengthFollowsStatusAndMask and FramesAndResponsesAreBounded. -/
theorem witness_answered :
    (sending [[0x22, 0x00], [0x00]]).params.Wf ∧
    (sending [[0x22, 0x00], [0x00]]).events = .request [0x22, 0x00] :: [.request [0x00]] := by decide

/-- A block in the middle of its work: one request answered, one abandoned, the collaborator initialised. -/
def working : State :=
  { State.reset with
    events := [.request [0x10, 0xBE, 0xEF]]
    trace := [.collaboratorInit, .request [0x10, 0x00, 0x00], .response [0x00, 0x81], .request [0x32, 0x00, 0x00], .reset]
    voc := ⟨5⟩ }

/-- StepKeepsTheInvariant and StepKeepsTheParameters: a state that is not reset, with a next state. -/
theorem witness_invariant : working.Inv ∧ ∃ t, step working = .next t := ⟨by decide, _, rfl⟩

/-- The invariant refuses a history out of order: a response nobody asked for, one too long, an unanswered request. -/
theorem witness_invariant_refuses :
    traceOk [.response [0x00]] = false ∧ traceOk [.request [0x10, 0x00, 0x00], .response [0x00, 0x81, 0x00]] = false ∧
    traceOk [.request [0x10, 0x00, 0x00]] = false := by decide

/-- ResponseDependsOnTheRequestAlone: two states with other histories and collaborators. -/
theorem witness_responseDepends :
    working.params = (sending [[0x10, 0xBE, 0xEF]]).params ∧ working.events = .request [0x10, 0xBE, 0xEF] :: [] ∧
    (sending [[0x10, 0xBE, 0xEF]]).events = .request [0x10, 0xBE, 0xEF] :: [] ∧
    (∃ t, step working = .next t) ∧ (∃ t, step (sending [[0x10, 0xBE, 0xEF]]) = .next t) ∧
    ([0x10, 0xBE, 0xEF] : Frame).head? ≠ some 0x32 ∧ ([0x10, 0xBE, 0xEF] : Frame).head? ≠ some 0x39 :=
  ⟨rfl, rfl, rfl, ⟨_, rfl⟩, ⟨_, rfl⟩, by decide, by decide⟩

/-- RunAnswersRequestsInOrder. -/
theorem witness_run : (sending [[0x60, 0x00], [0x21, 0xBE, 0xEF, 0x92]]).events =
    [[0x60, 0x00], [0x21, 0xBE, 0xEF, 0x92]].map .request := rfl

/-- RefusedRequestLeavesNoTrace. -/
theorem witness_refusedLeavesNoTrace :
    (sending [[0x60], [0x10, 0xBE, 0xEF]]).events = .request [0x60] :: .request [0x10, 0xBE, 0xEF] :: [] ∧
    frameCheck (sending [[0x60], [0x10, 0xBE, 0xEF]]).params.kmax [0x60] = some 0x81 ∧
    (∃ t, step (sending [[0x60], [0x10, 0xBE, 0xEF]]) = .next t ∧ ∃ u, step t = .next u) ∧
    ∃ v, step (sending [[0x10, 0xBE, 0xEF]]) = .next v :=
  ⟨rfl, by decide, ⟨_, rfl, _, rfl⟩, _, rfl⟩

/-- ResetSignalChangesNothingElse, AbandonedRequestIsNotAnswered, AbandonedRequestStaysInTheHistory,
HostInitialisesTheCollaborator, OverlappingRequestsHaveNoStep and IdleBlockStaysIdle. -/
theorem witness_hostEvents :
    ({ State.reset with events := [.resetSignal] } : State).events = .resetSignal :: [] ∧
    ({ State.reset with events := [.requestThenReset [0x32, 0x75, 0x30]] } : State).events =
      .requestThenReset [0x32, 0x75, 0x30] :: [] ∧
    ({ State.reset with events := [.initCollaborator ⟨1⟩] } : State).events = .initCollaborator ⟨1⟩ :: [] ∧
    ({ State.reset with events := [.overlap [0x10] [0x11]] } : State).events = .overlap [0x10] [0x11] :: [] ∧
    State.reset.events = [] := ⟨rfl, rfl, rfl, rfl, rfl⟩

/-- The error-detection statements: a valid word; a burst at each end of the word. -/
theorem witness_corruption :
    groupValid ⟨0xBE, 0xEF, 0x92⟩ = true ∧ (0x80 : Byte) ≠ 0 ∧ (0x01 : Byte) ≠ 0 := by decide

/-- FramingRoundTrips. -/
theorem witness_framing : decodeWord ⟨0xBE, 0xEF, 0x92⟩ = some 0xBEEF := by decide

/-- CorruptedGroupLeavesTheOthers: the last of eight words, one bit flipped. -/
theorem witness_corruptedGroup :
    7 < (List.replicate 8 (0x1234 : Word)).length ∧ (List.replicate 8 (0x1234 : Word)).length ≤ 8 ∧
    polyRemainder 0x000001 ≠ 0x00 := by decide

/-- TemperatureMapIsStrictlyIncreasing and HumidityRangeAndCollisions: both kinds of collision. -/
theorem witness_conversion :
    (0x0000 : Word) < 0x0001 ∧ (0x0000 : Word) ≠ 0x0C49 ∧
    convRh defaultParams 0x0000 = convRh defaultParams 0x0C49 ∧ (0xD916 : Word) ≠ 0xFFFF ∧
    convRh defaultParams 0xD916 = convRh defaultParams 0xFFFF := by decide

/-- RoundingIsToNearestHalvesUp at a half, and the domains of the compensation statements at their ends. -/
theorem witness_compensation :
    (0 : Int) < 2 ∧ roundDiv 1 2 = 1 ∧ (-2949075 : Int) ≤ 8519550 ∧ (0 : Int) ≤ 6553500 ∧ widest.Wf ∧
    0 ≤ rhLin defaultParams 0x0C4A ∧ rhLin defaultParams 0xD915 ≤ 6553500 := by decide

end Sys2Proof.Tests
end

/-! # The state: an abandoned request (R30)

The checksum loop is the bit-serial form of R92 (a), so a word is valid in the one sense exactly when it is in the other.
Of the fifteen operations only the two gas operations call the collaborator, with the ticks `gasTicks` names; so what a
reset can leave in the collaborator is one of two states. -/

namespace Sys2Proof.Machine

open Sys2Proof.Reference

/-! ## The checksum bit by bit (R90, R92 a) -/

/-- The bits of a byte as they travel: bit 7 first. -/
def byteBits (b : Byte) : List Bool := (List.range 8).map fun k => b.getLsbD (7 - k)

/-- A shift of a register with a byte in it: the byte's top bit is consumed serially, its other bits wait. -/
theorem crcShift_xor_eq_serialBit (crc b : Byte) :
    crcShift (crc ^^^ b) = serialBit crc (b.getLsbD 7) ^^^ (b <<< 1) := by
  unfold crcShift serialBit
  cases hc : crc.getLsbD 7 <;> cases hb : b.getLsbD 7 <;>
    simp only [BitVec.getLsbD_xor, hc, hb, BitVec.shiftLeft_xor_distrib, crcPoly] <;> grind

theorem crcShifts_succ_last (n : Nat) (crc : Byte) : crcShifts (n + 1) crc = crcShift (crcShifts n crc) := by
  induction n generalizing crc with
  | zero => rfl
  | succ n ih => exact ih (crcShift crc)

/-- After n shifts the top n bits of the byte are consumed, the others stand n places higher. -/
theorem crcShifts_xor_eq_foldl_serialBit (crc b : Byte) (n : Nat) (hn : n ≤ 8) :
    crcShifts n (crc ^^^ b) =
      ((List.range n).map fun k => b.getLsbD (7 - k)).foldl serialBit crc ^^^ (b <<< n) := by
  induction n with
  | zero => simp [crcShifts]
  | succ n ih =>
    have top : (b <<< n).getLsbD 7 = b.getLsbD (7 - n) := by
      rw [BitVec.getLsbD_shiftLeft, decide_eq_false (show ¬ 7 < n by omega)]
      rfl
    rw [crcShifts_succ_last, ih (by omega), crcShift_xor_eq_serialBit, top, ← BitVec.shiftLeft_add]
    simp [List.range_succ]

/-- One byte into the register is its eight bits, one after the other. -/
theorem crcByte_eq_foldl_serialBit (crc b : Byte) : crcByte crc b = (byteBits b).foldl serialBit crc := by
  simp [crcByte, crcShifts_xor_eq_foldl_serialBit, byteBits, BitVec.shiftLeft_eq_zero]

/-- The bits of a word are those of its high byte, then those of its low byte. -/
theorem wordBits_append (hi lo : Byte) :
    ((List.range 16).map fun k => (hi ++ lo).getLsbD (15 - k)) = byteBits hi ++ byteBits lo := by
  simp only [BitVec.getLsbD_append]
  simp [byteBits, List.range_succ]

/-- The loop's checksum is the bit-serial one. -/
theorem crc8_eq_serialCrc (b0 b1 : Byte) : crc8 b0 b1 = serialCrc (b0 ++ b1) := by
  simp [crc8, crcOver, crcInit, serialCrc, wordBits_append, crcByte_eq_foldl_serialBit]

theorem groupValid_eq_valid (g : FramedWord) : groupValid g = valid g := by
  simp [groupValid, valid, crc8_eq_serialCrc]

theorem decodeWord_eq_some_iff {g : FramedWord} {v : Word} :
    decodeWord g = some v ↔ valid g = true ∧ v = g.hi ++ g.lo := by
  rw [← groupValid_eq_valid]
  obtain ⟨hv, hd⟩ | ⟨hv, hd⟩ := decodeWord_cases g <;> simp [hv, hd, be16, eq_comm]

/-! ## When the collaborator is called, and with what (R127, R131, R133) -/

/-- The raw ticks an instruction calls the collaborator with; none when it does not call it. -/
def gasTicks : Instr → Option Word
  | .cnvGas ticks => some ticks
  | .measGas g => decodeWord g
  | _ => none

/-- The collaborator's state after an instruction has run to its end. -/
def State.vocAfter (s : State) (i : Instr) : VocState :=
  ((gasTicks i).map fun ticks => (s.afterVoc ticks).voc).getD s.voc

@[simp] theorem State.vocAfter_emit (s : State) (e : TraceEntry) (i : Instr) :
    (s.emit e).vocAfter i = s.vocAfter i := rfl

theorem gasTicks_eq_some_iff {i : Instr} {ticks : Word} :
    gasTicks i = some ticks ↔
      i = .cnvGas ticks ∨ ∃ g, i = .measGas g ∧ valid g = true ∧ ticks = g.hi ++ g.lo := by
  cases i <;> simp [gasTicks, decodeWord_eq_some_iff]

/-- An executed instruction adds one response and leaves the collaborator as `vocAfter` says; nothing else changes. -/
theorem exec_eq_vocAfter (i : Instr) (s : State) :
    ∃ response, exec i s =
      .next { s with trace := s.trace ++ [.response response], voc := s.vocAfter i } := by
  cases i with
  | measGas g =>
    simp only [exec, execMeasGas, State.vocAfter, gasTicks]
    cases decodeWord g <;> exact ⟨_, rfl⟩
  | cmpRh n =>
    simp only [exec, execCmpRh]
    split <;> exact ⟨_, rfl⟩
  | cmpT n =>
    simp only [exec, execCmpT]
    split <;> exact ⟨_, rfl⟩
  | cmpPair n m =>
    simp only [exec, execCmpPair]
    split <;> exact ⟨_, rfl⟩
  | snDec g0 g1 g2 =>
    simp only [exec, execSnDec]
    split <;> exact ⟨_, rfl⟩
  | _ => exact ⟨_, rfl⟩

/-- A refused frame leaves the collaborator alone. -/
theorem vocWhenDone_of_error {s : State} {frame : Frame} {e : Illegal} (h : decode s.params frame = .error e) :
    vocWhenDone frame s = s.voc := by
  simp [vocWhenDone, handleRequest, h, answerRefused_eq]

/-- An accepted frame does to the collaborator what its instruction does. -/
theorem vocWhenDone_of_ok {s : State} {frame : Frame} {i : Instr} (h : decode s.params frame = .ok i) :
    vocWhenDone frame s = s.vocAfter i := by
  obtain ⟨response, hexec⟩ := exec_eq_vocAfter i (s.emit (.request frame))
  simp [vocWhenDone, handleRequest, h, hexec]

/-- A request run to its end leaves the collaborator unchanged, or calls it once, with the ticks of its instruction. -/
theorem vocWhenDone_cases (s : State) (frame : Frame) :
    vocWhenDone frame s = s.voc ∨
      ∃ i ticks, decode s.params frame = .ok i ∧ gasTicks i = some ticks ∧
        vocWhenDone frame s = (Config.vocProcess s.params.idxBits s.voc ticks).1 := by
  cases hd : decode s.params frame with
  | error e => exact .inl (vocWhenDone_of_error hd)
  | ok i =>
    rw [vocWhenDone_of_ok hd, State.vocAfter]
    cases ht : gasTicks i with
    | none => exact .inl rfl
    | some ticks => exact .inr ⟨i, ticks, rfl, ht, rfl⟩

/-- The reset leaves the collaborator as it was or as the whole request would have left it (R30). -/
theorem abandonRequest_voc_cases (s : State) (frame : Frame) :
    (abandonRequest frame s).voc = s.voc ∨ (abandonRequest frame s).voc = vocWhenDone frame s := by
  rw [abandonRequest_voc]
  split
  · exact .inr rfl
  · exact .inl rfl

theorem step_requestThenReset {s : State} {frame : Frame} {rest : List HostEvent}
    (h : s.events = .requestThenReset frame :: rest) :
    step s = .next (abandonRequest frame { s with events := rest }) :=
  step_event h

/-- Settles O35: of the state after an abandoned request the history and the parameters are known outright; the
collaborator is in the state before or, whichever way the free constant falls, in the one its single call leaves. -/
theorem abandonedRequestIsNotAnswered : Obligations.AbandonedRequestIsNotAnswered := by
  intro s frame rest h
  refine ⟨_, [.request frame, .reset], step_requestThenReset h, rfl, rfl, by simp, ?_⟩
  obtain hvoc | hvoc := abandonRequest_voc_cases { s with events := rest } frame
  · exact .inl hvoc
  rw [hvoc]
  obtain hsame | ⟨i, ticks, hd, ht, hcall⟩ := vocWhenDone_cases { s with events := rest } frame
  · exact .inl hsame
  refine .inr ⟨ticks, hcall, ?_⟩
  obtain rfl | ⟨g, rfl, hvalid, rfl⟩ := gasTicks_eq_some_iff.mp ht
  · exact .inl hd
  · exact .inr ⟨g, hd, hvalid, rfl⟩

end Sys2Proof.Machine

/-! # Responses: one for every request frame (R61), and the identities between operations (R77)

Every answer of the block is a status byte and, when the status is DONE only, a payload: `AnswersOnce` says so of one
outcome, each operation has it because it ends in `answerDone` or `answerRefused`, and a request has it because it ends in
an operation or a refusal. The identities of R77 compare payloads: of two operations that read the same groups the masks
agree, and `available_or_absent` compares one quantity at a time. -/

namespace Sys2Proof.Machine

open Sys2Proof.Reference

/-! ## One response, with a status of R68 (R61) -/

/-- The outcome is a next state: one response is added to the history, its payload is empty unless the status is DONE, the
collaborator may have been called, and nothing else changes. -/
def AnswersOnce (s : State) (o : Host.Outcome State Fault Refusal) : Prop :=
  ∃ (st : Status) (payload : Frame) (voc : VocState),
    o = .next { s with trace := s.trace ++ [.response (st.code :: payload)], voc := voc } ∧
    (st ≠ .done → payload = [])

theorem answersOnce_answerDone (payload : Frame) (s : State) (voc : VocState) :
    AnswersOnce s (answerDone payload { s with voc := voc }) :=
  ⟨.done, payload, voc, answerDone_eq .., fun h => absurd rfl h⟩

theorem answersOnce_answerRefused (st : Status) (s : State) : AnswersOnce s (answerRefused st s) :=
  ⟨st, [], s.voc, answerRefused_eq .., fun _ => rfl⟩

/-- Only the compensation operations can refuse; the gas operations alone answer from another collaborator state. -/
theorem answersOnce_exec (i : Instr) (s : State) : AnswersOnce s (exec i s) := by
  cases i with
  | measGas g =>
    simp only [exec, execMeasGas]
    split
    · exact answersOnce_answerDone _ s s.voc
    · exact answersOnce_answerDone _ s _
  | cmpRh n =>
    simp only [exec, execCmpRh]
    split
    · exact answersOnce_answerDone _ s s.voc
    · exact answersOnce_answerRefused _ s
  | cmpT n =>
    simp only [exec, execCmpT]
    split
    · exact answersOnce_answerDone _ s s.voc
    · exact answersOnce_answerRefused _ s
  | cmpPair n m =>
    simp only [exec, execCmpPair]
    split
    · exact answersOnce_answerRefused _ s
    · exact answersOnce_answerDone _ s s.voc
  | snDec g0 g1 g2 =>
    simp only [exec, execSnDec]
    split <;> exact answersOnce_answerDone _ s s.voc
  | cnvGas ticks => exact answersOnce_answerDone _ s _
  | _ => exact answersOnce_answerDone _ s s.voc

/-- A request frame, legal or not, is recorded and then answered once. -/
theorem answersOnce_handleRequest (frame : Frame) (s : State) :
    AnswersOnce (s.emit (.request frame)) (handleRequest frame s) := by
  unfold handleRequest
  split
  · exact answersOnce_answerRefused _ _
  · exact answersOnce_exec _ _

theorem Status.code_mem_statusBytes (st : Status) : st.code ∈ statusBytes := by
  cases st <;> decide

/-- Settles O25: the step is the request's, the answer's status is one of the seven, and DONE is the status with byte 0. -/
theorem everyFrameIsAnsweredByOneResponse : Obligations.EveryFrameIsAnsweredByOneResponse := by
  intro s frame rest h
  obtain ⟨st, payload, voc, hanswer, hpayload⟩ := answersOnce_handleRequest frame { s with events := rest }
  refine ⟨st.code, payload, voc, ?_, st.code_mem_statusBytes, fun hst => hpayload fun hdone => hst (hdone ▸ rfl)⟩
  rw [step_event h, handleEvent, hanswer]
  simp [State.emit, served]

/-! ## The identities between operations (R77) -/

/-- Two responses added to the same state give the same state only when they are the same. -/
@[simp] theorem answered_inj {s : State} {r r' : Frame} : answered s r = answered s r' ↔ r = r' := by
  simp [answered]

theorem exec_crcValidate (g : FramedWord) (s : State) :
    exec (.crcValidate g) s = .next (answered s [0x00, boolByte (groupValid g)]) := rfl

theorem exec_frmDec (g : FramedWord) (s : State) :
    exec (.frmDec g) s = .next (answered s (0x00 :: maskedPayload [(decodeWord g).map bytes16])) := rfl

theorem exec_frmDeck (groups : List FramedWord) (s : State) :
    exec (.frmDeck groups) s =
      .next (answered s (0x00 :: maskedPayload ((decodeMulti groups).map (Option.map bytes16)))) := rfl

theorem exec_cnvT (raw : Word) (s : State) :
    exec (.cnvT raw) s = .next (answered s (0x00 :: enc32s (convT raw))) := rfl

theorem exec_cnvRh (raw : Word) (s : State) :
    exec (.cnvRh raw) s = .next (answered s (0x00 :: enc32s (convRh s.params raw))) := rfl

theorem exec_measHt (g0 g1 : FramedWord) (s : State) :
    exec (.measHt g0 g1) s =
      .next (answered s (0x00 :: maskedPayload
        [(decodeWord g0).map fun raw => enc32s (convT raw),
         (decodeWord g1).map fun raw => enc32s (convRh s.params raw)])) := rfl

/-- Decoding the groups of a one-group list is decoding the group (R104, R105). -/
theorem exec_frmDec_eq_frmDeck (g : FramedWord) (s : State) : exec (.frmDec g) s = exec (.frmDeck [g]) s := by
  rw [exec_frmDec, exec_frmDeck, decodeMulti, List.map_singleton, List.map_singleton]

/-- With one item the mask byte is the Boolean byte. -/
theorem maskByte_singleton (b : Bool) : maskByte [b] = boolByte b := by
  cases b <;> decide

theorem maskedPayload_singleton (item : Option Frame) :
    maskedPayload [item] = boolByte item.isSome :: item.getD [] := by
  simp [maskedPayload, maskByte_singleton]

theorem maskedPayload_pair (item0 item1 : Option Frame) :
    maskedPayload [item0, item1] =
      maskByte [item0.isSome, item1.isSome] :: (item0.getD [] ++ item1.getD []) := by
  simp [maskedPayload]

/-- A framed word decodes exactly when it is valid (R102). -/
theorem isSome_decodeWord (g : FramedWord) : (decodeWord g).isSome = groupValid g := by
  obtain ⟨hv, hd⟩ | ⟨hv, hd⟩ := decodeWord_cases g <;> simp [hv, hd]

/-- Both operations show one Boolean, the word's validity: CRC.VALIDATE as its result, FRM.DEC as its mask. -/
theorem exec_crcValidate_true_iff_frmDec_mask (g : FramedWord) (s : State) :
    exec (.crcValidate g) s = .next (answered s [0x00, 0x01]) ↔
      ∃ value : Frame, exec (.frmDec g) s = .next (answered s (0x00 :: 0x01 :: value)) := by
  simp [exec_crcValidate, exec_frmDec, maskedPayload_singleton, isSome_decodeWord]

/-- One quantity of a measurement: when the word is available, its value and what a conversion of it answers; else
neither (R70, R129). -/
theorem available_or_absent {s : State} {op : Word → Instr} {convert : Word → Frame}
    (hop : ∀ v, exec (op v) s = .next (answered s (0x00 :: convert v))) (word : Option Word) :
    if word.isSome then
      ∃ v : Word, (word.map bytes16).getD [] = bytes16 v ∧
        exec (op v) s = .next (answered s (0x00 :: (word.map convert).getD []))
    else (word.map bytes16).getD [] = [] ∧ (word.map convert).getD [] = [] := by
  cases word with
  | none => exact ⟨rfl, rfl⟩
  | some v => exact ⟨v, rfl, hop v⟩

/-- Settles O48: all three compare the payloads of operations that decode the same groups; for MEAS.HT, word by word. -/
theorem operationIdentities : Obligations.OperationIdentities := by
  refine ⟨exec_frmDec_eq_frmDeck, exec_crcValidate_true_iff_frmDec_mask, fun g0 g1 s => ?_⟩
  refine ⟨maskByte [(decodeWord g0).isSome, (decodeWord g1).isSome],
    ((decodeWord g0).map bytes16).getD [], ((decodeWord g1).map bytes16).getD [],
    ((decodeWord g0).map fun raw => enc32s (convT raw)).getD [],
    ((decodeWord g1).map fun raw => enc32s (convRh s.params raw)).getD [], ?_, ?_, ?_, ?_⟩
  · simp [exec_frmDeck, decodeMulti, maskedPayload_pair]
  · simp [exec_measHt, maskedPayload_pair]
  · rw [maskByte_getLsbD _ (by simp)]
    exact available_or_absent (exec_cnvT · s) (decodeWord g0)
  · rw [maskByte_getLsbD _ (by simp)]
    exact available_or_absent (exec_cnvRh · s) (decodeWord g1)

end Sys2Proof.Machine

/-! # CRC-8: the two operations (R93, R94) and the forms of the checksum (R92, R97)

A shift of the register is one step of the division by the generator: the register stands somewhere in the dividend, and
cancelling the bit above it moves it one place down. So the loop is the remainder, for any three bytes; and because the
generator has a constant term a shift loses nothing, so the register is zero after eight shifts only when it was before. -/

namespace Sys2Proof.Machine

open Sys2Proof.Reference

/-! ## The register is zero only when it was zero (R97) -/

/-- The polynomial's constant term keeps the bit that is shifted out. -/
theorem crcShift_getLsbD_zero (crc : Byte) : (crcShift crc).getLsbD 0 = crc.getLsbD 7 := by
  unfold crcShift
  split
  · next top => rw [top, BitVec.getLsbD_xor, BitVec.getLsbD_shiftLeft]; rfl
  · next top => rw [Bool.eq_false_iff.mpr top, BitVec.getLsbD_shiftLeft]; rfl

theorem crcShift_eq_zero_iff {crc : Byte} : crcShift crc = 0 ↔ crc = 0 := by
  refine ⟨fun h => ?_, by rintro rfl; rfl⟩
  have top : crc.getLsbD 7 = false := by rw [← crcShift_getLsbD_zero, h]; rfl
  have shifted : crc <<< 1 = 0 := by rwa [crcShift, top] at h
  apply BitVec.eq_of_getElem_eq
  intro i hi
  have bit : (crc <<< 1).getLsbD (i + 1) = false := by rw [shifted]; exact BitVec.getLsbD_zero
  obtain rfl | hi7 : i = 7 ∨ i < 7 := by omega
  · simpa using top
  · simpa [hi7, show i + 1 < 8 by omega] using bit

theorem crcShifts_eq_zero_iff {n : Nat} {crc : Byte} : crcShifts n crc = 0 ↔ crc = 0 := by
  induction n generalizing crc with
  | zero => rfl
  | succ n ih => rw [crcShifts, ih, crcShift_eq_zero_iff]

/-- Settles O41: the third byte leaves zero exactly when it equals the register after the first two. -/
theorem residueIsZeroExactlyWhenValid : Obligations.ResidueIsZeroExactlyWhenValid := by
  intro g
  calc crcOver [g.hi, g.lo, g.crc] = 0
      ↔ crcShifts 8 (crc8 g.hi g.lo ^^^ g.crc) = 0 := by
        rw [crc8, ← crcOver_append, List.cons_append, List.singleton_append]
    _ ↔ crc8 g.hi g.lo = g.crc := by rw [crcShifts_eq_zero_iff]; exact BitVec.xor_eq_zero_iff

/-! ## The loop is the division by the generator (R92 b) -/

/-- In 24 bits the bit that leaves the register is kept: it is the coefficient of x^8. -/
theorem setWidth_shiftLeft_one (crc : Byte) :
    (crc <<< 1).setWidth 24 =
      (crc.setWidth 24 <<< 1) ^^^ (if crc.getLsbD 7 then BitVec.twoPow 24 8 else 0) := by
  apply BitVec.eq_of_getLsbD_eq
  intro i hi
  obtain rfl | h8 : i = 8 ∨ i ≠ 8 := by omega
  · cases top : crc.getLsbD 7 <;> simp_all
  · cases crc.getLsbD 7 <;> simp [BitVec.getLsbD_twoPow, h8.symm] <;> grind

/-- A shift multiplies by x and, when the product has degree 8, subtracts the generator. -/
theorem setWidth_crcShift (crc : Byte) :
    (crcShift crc).setWidth 24 = (crc.setWidth 24 <<< 1) ^^^ (if crc.getLsbD 7 then 0x131#24 else 0) := by
  cases top : crc.getLsbD 7
  · simp only [crcShift, top, Bool.false_eq_true, if_false, setWidth_shiftLeft_one]
  · simp only [crcShift, top, if_true, BitVec.setWidth_xor, setWidth_shiftLeft_one, BitVec.xor_assoc]
    rfl

/-- A register standing above position k: cancelling the bit at k + 8 shifts it one place down. -/
theorem cancel_register (crc : Byte) (rest : BitVec 24) (k : Nat) (hk : k < 16)
    (hrest : rest.getLsbD (k + 8) = false) :
    cancel ((crc.setWidth 24 <<< (k + 1)) ^^^ rest) k = ((crcShift crc).setWidth 24 <<< k) ^^^ rest := by
  have top : ((crc.setWidth 24 <<< (k + 1)) ^^^ rest).getLsbD (k + 8) = crc.getLsbD 7 := by
    rw [BitVec.getLsbD_xor, hrest, BitVec.getLsbD_shiftLeft]
    simp [show k + 8 - (k + 1) = 7 by omega, show k + 8 < 24 by omega]
  rw [cancel, top, setWidth_crcShift, BitVec.shiftLeft_xor_distrib, ← BitVec.shiftLeft_add, Nat.add_comm 1 k]
  cases crc.getLsbD 7
  · simp
  · simp only [if_true]
    ac_rfl

/-- The division's next n steps, down to position k, are n shifts of the register standing above them. -/
theorem foldl_cancel_register (n k : Nat) (crc : Byte) (rest : BitVec 24) (hk : k + n ≤ 16)
    (hrest : ∀ i, k + 8 ≤ i → rest.getLsbD i = false) :
    (List.range' k n).reverse.foldl cancel ((crc.setWidth 24 <<< (k + n)) ^^^ rest) =
      ((crcShifts n crc).setWidth 24 <<< k) ^^^ rest := by
  induction n generalizing crc with
  | zero => rfl
  | succ n ih =>
    rw [List.range'_concat, List.reverse_concat, List.foldl_cons, one_mul, ← add_assoc,
      cancel_register crc rest (k + n) (by omega) (hrest _ (by omega)), ih _ (by omega), crcShifts]

/-- Three bytes as one polynomial: each stands at its own place. -/
theorem append_eq_xor_shiftLeft (b0 b1 b2 : Byte) :
    b0 ++ b1 ++ b2 = (b0.setWidth 24 <<< 16) ^^^ ((b1.setWidth 24 <<< 8) ^^^ b2.setWidth 24) := by
  apply BitVec.eq_of_getLsbD_eq
  intro i hi
  simp only [BitVec.getLsbD_append, BitVec.getLsbD_xor, BitVec.getLsbD_shiftLeft, BitVec.getLsbD_setWidth]
  grind

/-- The remainder of any three bytes: eight shifts for the first, eight for the second (R96). -/
theorem polyRemainder_append (b0 b1 b2 : Byte) :
    polyRemainder (b0 ++ b1 ++ b2) = crcShifts 8 (crcShifts 8 b0 ^^^ b1) ^^^ b2 := by
  have positions : ((List.range 16).map fun k => 15 - k) =
      (List.range' 8 8).reverse ++ (List.range' 0 8).reverse := by decide
  have above (i : Nat) (h : 8 ≤ i) : (b2.setWidth 24).getLsbD i = false := by
    rw [BitVec.getLsbD_setWidth, BitVec.getLsbD_of_ge b2 i h, Bool.and_false]
  have above_two (i : Nat) (h : 16 ≤ i) : ((b1.setWidth 24 <<< 8) ^^^ b2.setWidth 24).getLsbD i = false := by
    rw [BitVec.getLsbD_xor, above i (by omega), BitVec.getLsbD_shiftLeft, BitVec.getLsbD_setWidth,
      BitVec.getLsbD_of_ge b1 (i - 8) (by omega)]
    simp
  have second : ((crcShifts 8 b0).setWidth 24 <<< 8) ^^^ ((b1.setWidth 24 <<< 8) ^^^ b2.setWidth 24) =
      ((crcShifts 8 b0 ^^^ b1).setWidth 24 <<< 8) ^^^ b2.setWidth 24 := by
    rw [BitVec.setWidth_xor, BitVec.shiftLeft_xor_distrib, BitVec.xor_assoc]
  rw [polyRemainder, positions, List.foldl_append, append_eq_xor_shiftLeft,
    foldl_cancel_register 8 8 b0 _ (by omega) above_two, second,
    foldl_cancel_register 8 0 (crcShifts 8 b0 ^^^ b1) _ (by omega) (by simpa using above)]
  simp

/-- The polynomial form's XOR with 0xFF00 is the register's start value on the high byte. -/
theorem crc8_eq_polyCrc (b0 b1 : Byte) : crc8 b0 b1 = polyCrc (b0 ++ b1) := by
  have dividend : (b0 ++ b1 : Word) ^^^ 0xFF00 = (crcInit ^^^ b0) ++ b1 := by
    rw [BitVec.xor_comm crcInit]
    exact (BitVec.xor_append (x₁ := b0) (y₁ := b1) (x₂ := 0xFF) (y₂ := 0x00)).trans (by simp [crcInit])
  rw [polyCrc, dividend, polyRemainder_append]
  simp [crc8, crcOver, crcByte]

/-! ## The table (R92 c) -/

/-- Each of the 256 entries transcribed from the spec, by evaluation. -/
theorem tableT_eq_crcShifts : ∀ x : Byte, tableT x = crcShifts 8 x := by
  decide

theorem crc8_eq_tableCrc (b0 b1 : Byte) : crc8 b0 b1 = tableCrc b0 b1 := by
  simp only [tableCrc, tableT_eq_crcShifts]
  rfl

/-- `crc8w` in the bit-serial form (R91, R92 a). -/
theorem crc8w_eq_serialCrc (w : Word) : crc8w w = serialCrc w := by
  rw [crc8w, crc8_eq_serialCrc]
  exact congrArg serialCrc (be16_hiByte_loByte w)

theorem crc8w_eq_polyCrc (w : Word) : crc8w w = polyCrc w := by
  rw [crc8w, crc8_eq_polyCrc]
  exact congrArg polyCrc (be16_hiByte_loByte w)

/-- Settles O40: each form is compared with the loop on the two bytes of the word. -/
theorem checksumFormulationsAgree : Obligations.ChecksumFormulationsAgree :=
  ⟨fun w => ⟨crc8w_eq_serialCrc w, crc8w_eq_polyCrc w, crc8_eq_tableCrc _ _⟩, tableT_eq_crcShifts⟩

/-! ## The operations (R93, R94) -/

/-- A frame that begins with a row's opcode byte is read in that row's format. -/
theorem decode_code_cons (p : Params) (o : Opcode) (args : Frame) :
    decode p (o.code :: args) = decodeOperands p o args := by
  rw [decode, Laws.FrameShape.opcodeOf_code]

/-- A row whose format has one length refuses every other (R64). -/
theorem onlyLength_code {α : Type} {o : Opcode} {n : Nat} {mk : α → Instr} {read : Frame → Option α}
    (hrow : ∀ p args, decodeOperands p o args = withOperands mk (read args))
    (hread : ∀ args, args.length ≠ n → read args = none) : OnlyLength o.code n := by
  intro p args hlen
  rw [decode_code_cons, hrow, hread args hlen, withOperands]

theorem exec_crcCompute (w : Word) (s : State) :
    exec (.crcCompute w) s = .next (answered s [0x00, crc8w w]) := rfl

/-- Settles O9: the word read from the frame's two bytes is w, and its checksum has the bit-serial form. -/
theorem crcComputeAnswersTheChecksum : Obligations.CrcComputeAnswersTheChecksum := by
  intro w s
  refine ⟨fun p => ?_, ?_, ?_⟩
  · calc decode p (Opcode.crcCompute.code :: bytes16 w)
      _ = .ok (.crcCompute (be16 (hiByte w) (loByte w))) := decode_code_cons ..
      _ = .ok (.crcCompute w) := by rw [be16_hiByte_loByte]
  · exact onlyLength_code (o := .crcCompute) (fun _ _ => rfl) fun args => (readW_eq_none args).mpr
  · rw [exec_crcCompute, crc8w_eq_serialCrc]

/-- Settles O10: the Boolean answered is the validity of the group, which compares the bit-serial checksum. -/
theorem crcValidateAnswersWhetherTheChecksumMatches :
    Obligations.CrcValidateAnswersWhetherTheChecksumMatches := by
  intro g s
  refine ⟨fun p => ?_, ?_, ?_⟩
  · exact decode_code_cons p .crcValidate g.bytes
  · exact onlyLength_code (o := .crcValidate) (fun _ _ => rfl) fun args => (readG_eq_none args).mpr
  · simp [exec_crcValidate, groupValid_eq_valid, valid, boolByte]

end Sys2Proof.Machine

/-! # The framer: the round trip (R107, R110) and the three operations (R103, R104, R106)

Both decoding operations answer a masked payload of the words they decode. What such a payload shows of a group is decided
by its validity alone: `map_bytes16_decodeWord` says what the item is, and FRM.DEC and FRM.DECK are read off from it. -/

namespace Sys2Proof.Machine

open Sys2Proof.Reference

/-! ## Encoding and decoding are inverse (R107, R110) -/

/-- The checksum of an encoded word is computed from the same two bytes it is compared with. -/
theorem decodeWord_encodeWord (v : Word) : decodeWord (encodeWord v) = some v := by
  have hvalid : groupValid (encodeWord v) = true := beq_self_eq_true (crc8w v)
  rw [decodeWord, if_pos hvalid]
  exact congrArg some (be16_hiByte_loByte v)

/-- The data bytes of a word that decodes are those of its value, and its validity fixes the third. -/
theorem encodeWord_of_decodeWord {g : FramedWord} {v : Word} (h : decodeWord g = some v) : encodeWord v = g := by
  obtain ⟨hvalid, rfl⟩ := decodeWord_eq_some_iff.mp h
  have hcrc : crc8 g.hi g.lo = g.crc := by simpa [← groupValid_eq_valid, groupValid] using hvalid
  calc encodeWord (be16 g.hi g.lo)
    _ = ⟨g.hi, g.lo, crc8 g.hi g.lo⟩ := by simp [encodeWord, crc8w]
    _ = g := by rw [hcrc]

/-- Settles O46: the two composites, each an identity. -/
theorem framingRoundTrips : Obligations.FramingRoundTrips :=
  ⟨decodeWord_encodeWord, fun _ _ => encodeWord_of_decodeWord⟩

/-! ## FRM.ENC (R103) -/

theorem exec_frmEnc (v : Word) (s : State) :
    exec (.frmEnc v) s = .next (answered s [0x00, hiByte v, loByte v, crc8w v]) := rfl

/-- Settles O11: the operand is the value in wire order, and the checksum has the bit-serial form. -/
theorem frmEncAnswersTheFramedWord : Obligations.FrmEncAnswersTheFramedWord := by
  intro v s
  refine ⟨fun p => ?_, ?_, ?_⟩
  · calc decode p (Opcode.frmEnc.code :: bytes16 v)
      _ = .ok (.frmEnc (be16 (hiByte v) (loByte v))) := decode_code_cons ..
      _ = .ok (.frmEnc v) := by rw [be16_hiByte_loByte]
  · exact onlyLength_code (o := .frmEnc) (fun _ _ => rfl) fun args => (readW_eq_none args).mpr
  · rw [exec_frmEnc, crc8w_eq_serialCrc]
    rfl

/-! ## The item a group gives to a masked payload (R70, R104, R109) -/

/-- A valid group gives its two data bytes as they came; an invalid one gives nothing. -/
theorem map_bytes16_decodeWord (g : FramedWord) :
    (decodeWord g).map bytes16 = if valid g then some [g.hi, g.lo] else none := by
  rw [← groupValid_eq_valid]
  obtain ⟨hv, hd⟩ | ⟨hv, hd⟩ := decodeWord_cases g
  · simp [hv, hd, bytes16]
  · simp [hv, hd]

/-- Settles O12: the payload has one item, which is present exactly when the word is valid. -/
theorem frmDecAnswersTheValueOnlyWhenValid : Obligations.FrmDecAnswersTheValueOnlyWhenValid := by
  intro g s
  refine ⟨fun p => ?_, ?_, ?_⟩
  · exact decode_code_cons p .frmDec g.bytes
  · exact onlyLength_code (o := .frmDec) (fun _ _ => rfl) fun args => (readG_eq_none args).mpr
  · rw [exec_frmDec, maskedPayload_singleton, map_bytes16_decodeWord]
    cases valid g <;> rfl

/-! ## FRM.DECK (R106) -/

/-- The mask of FRM.DECK has the validity of each group at its place. -/
theorem map_isSome_decodeMulti (groups : List FramedWord) :
    ((decodeMulti groups).map (Option.map bytes16)).map Option.isSome = groups.map valid := by
  simp [decodeMulti, isSome_decodeWord, groupValid_eq_valid]

/-- The values of FRM.DECK are the data bytes of the valid groups, in order. -/
theorem flatMap_getD_decodeMulti (groups : List FramedWord) :
    ((decodeMulti groups).map (Option.map bytes16)).flatMap (Option.getD · []) =
      (groups.filter valid).flatMap fun g => [g.hi, g.lo] := by
  induction groups with
  | nil => rfl
  | cons g gs ih =>
    have values_cons : ((decodeMulti (g :: gs)).map (Option.map bytes16)).flatMap (Option.getD · []) =
        ((decodeWord g).map bytes16).getD [] ++ (gs.filter valid).flatMap fun g => [g.hi, g.lo] := by
      rw [← ih]; rfl
    rw [values_cons, map_bytes16_decodeWord]
    cases hv : valid g
    · rw [List.filter_cons_of_neg (by simp [hv])]; rfl
    · rw [List.filter_cons_of_pos hv]; rfl

theorem exec_frmDeck_eq_answered_valid (groups : List FramedWord) (s : State) :
    exec (.frmDeck groups) s = .next (answered s
      (0x00 :: maskByte (groups.map valid) :: (groups.filter valid).flatMap fun g => [g.hi, g.lo])) := by
  rw [exec_frmDeck, maskedPayload, map_isSome_decodeMulti, flatMap_getD_decodeMulti]

/-- After the opcode and the count byte: the count is checked first, then the length (R74, R176). -/
theorem decode_frmDeck (p : Params) (k : Byte) (body : Frame) :
    decode p (0x22 :: k :: body) =
      if p.kmax < k.toNat then .error .count else withOperands .frmDeck (readGroups k.toNat body) :=
  decode_code_cons p .frmDeck (k :: body)

/-- A count within KMAX and the image of that many groups is read as those groups. -/
theorem decode_frmDeck_bytes {p : Params} {groups : List FramedWord} (hbyte : groups.length < 256)
    (hkmax : groups.length ≤ p.kmax) :
    decode p (0x22 :: BitVec.ofNat 8 groups.length :: groups.flatMap FramedWord.bytes) = .ok (.frmDeck groups) := by
  have hcount : (BitVec.ofNat 8 groups.length).toNat = groups.length :=
    (BitVec.toNat_ofNat ..).trans (Nat.mod_eq_of_lt hbyte)
  rw [decode_frmDeck, hcount, if_neg hkmax.not_gt, readGroups_bytes, withOperands]

/-- A count within KMAX and any other length than three bytes for each group (R64). -/
theorem decode_frmDeck_length {p : Params} {k : Byte} {body : Frame} (hkmax : k.toNat ≤ p.kmax)
    (hlen : body.length ≠ 3 * k.toNat) : decode p (0x22 :: k :: body) = .error .length := by
  rw [decode_frmDeck, if_neg hkmax.not_gt, (readGroups_eq_none _ _).mpr hlen, withOperands]

/-- Settles O13: the frame clauses are the checks of `decode_frmDeck` in order; the mask of at most eight groups has each
group's validity at its bit. -/
theorem frmDeckAnswersTheValidGroups : Obligations.FrmDeckAnswersTheValidGroups := by
  intro groups s hlen
  refine ⟨fun p hkmax => decode_frmDeck_bytes (by omega) hkmax, fun p => decode_code_cons p .frmDeck [],
    fun p k body hkmax => ?_, fun p k body => decode_frmDeck_length,
    fun _ => ⟨maskByte (groups.map valid), exec_frmDeck_eq_answered_valid groups s, fun i => ?_⟩⟩
  · rw [decode_frmDeck, if_pos hkmax]
  · rw [maskByte_getLsbD _ (by simpa using hlen)]
    cases hi : groups[i]? <;> simp [hi]

end Sys2Proof.Machine

/-! # The conversions: single quantities (R125, R126, R127) and the measurement pipeline (R129, R130, R131)

Every numerator the block answers fits a 32-bit field: the temperature by its range, the humidity by its clamp, the index
by its width. So its four bytes carry it (`carries_enc32s`), and the measurement operations are read off quantity by
quantity from the validity of each word. -/

namespace Sys2Proof.Machine

open Sys2Proof.Reference

/-! ## Frames (R63) -/

theorem readG2_eq_none (f : Frame) : readG2 f = none ↔ f.length ≠ 6 := by
  rcases f with _ | ⟨_, _ | ⟨_, _ | ⟨_, _ | ⟨_, _ | ⟨_, _ | ⟨_, _ | _⟩⟩⟩⟩⟩⟩ <;> simp [readG2]

/-- A row of format W reads back the word its two operand bytes were split from. -/
theorem decode_code_bytes16 {o : Opcode} {mk : Word → Instr}
    (hrow : ∀ p args, decodeOperands p o args = withOperands mk (readW args)) (p : Params) (w : Word) :
    decode p (o.code :: bytes16 w) = .ok (mk w) := by
  calc decode p (o.code :: bytes16 w)
    _ = withOperands mk (readW (bytes16 w)) := by rw [decode_code_cons, hrow]
    _ = .ok (mk (be16 (hiByte w) (loByte w))) := rfl
    _ = .ok (mk w) := by rw [be16_hiByte_loByte]

/-! ## Four bytes carry a number (R44, R69) -/

theorem carries_bytes32 (v : Field32) : Carries (bytes32 v) v.toInt :=
  ⟨_, _, _, _, rfl, congrArg BitVec.toInt (be32_bytes32 v)⟩

theorem carries_enc32s {n : Int} (hlow : -2147483648 ≤ n) (hhigh : n ≤ 2147483647) : Carries (enc32s n) n := by
  have h := carries_bytes32 (BitVec.ofInt 32 n)
  rwa [toInt_ofInt32 n hlow hhigh] at h

/-! ## The numbers carried (R121, R123, R124) -/

theorem convT_eq (raw : Word) : convT raw = 175 * raw.toNat - 2949075 := rfl

theorem convRh_eq (p : Params) (raw : Word) :
    convRh p raw = min (max (p.rhSpan * raw.toNat + p.rhOffset * 65535) 0) 6553500 := rfl

theorem carries_convT (raw : Word) : Carries (enc32s (convT raw)) (175 * raw.toNat - 2949075) := by
  have hraw : raw.toNat < 65536 := raw.isLt
  rw [convT_eq]
  exact carries_enc32s (by omega) (by omega)

/-- The clamp alone makes the humidity fit, whatever the parameters. -/
theorem carries_convRh (p : Params) (raw : Word) :
    Carries (enc32s (convRh p raw)) (min (max (p.rhSpan * raw.toNat + p.rhOffset * 65535) 0) 6553500) := by
  rw [convRh_eq]
  exact carries_enc32s (by omega) (by omega)

/-- A signed integer of at most 32 bits fits a field. -/
theorem carries_toInt {w : Nat} (x : BitVec w) (hw : w ≤ 32) : Carries (enc32s x.toInt) x.toInt := by
  have hpow : (2 : Int) ^ w ≤ 2 ^ 32 := pow_le_pow_right₀ (by decide) hw
  have hlow := x.le_two_mul_toInt
  have hhigh := x.two_mul_toInt_lt
  exact carries_enc32s (by omega) (by omega)

theorem carries_vocIndex {s : State} (hwf : s.params.Wf) (ticks : Word) :
    Carries (enc32s (s.vocIndex ticks)) (Config.vocProcess s.params.idxBits s.voc ticks).2.toInt := by
  obtain ⟨-, -, -, -, -, -, -, -, -, hidx⟩ := hwf
  exact carries_toInt _ hidx

/-! ## Single quantities (R125, R126, R127) -/

/-- Settles O14: the numerator answered is the affine map's, which fits a field for every raw code. -/
theorem cnvTAnswersTheTemperature : Obligations.CnvTAnswersTheTemperature := by
  intro raw s
  refine ⟨fun p => ?_, ?_, _, exec_cnvT raw s, carries_convT raw⟩
  · exact decode_code_bytes16 (o := .cnvT) (fun _ _ => rfl) p raw
  · exact onlyLength_code (o := .cnvT) (fun _ _ => rfl) fun args => (readW_eq_none args).mpr

/-- Settles O15: the numerator answered is the clamped one, with the parameters of the state. -/
theorem cnvRhAnswersTheClampedHumidity : Obligations.CnvRhAnswersTheClampedHumidity := by
  intro raw s
  refine ⟨fun p => ?_, ?_, _, exec_cnvRh raw s, carries_convRh s.params raw⟩
  · exact decode_code_bytes16 (o := .cnvRh) (fun _ _ => rfl) p raw
  · exact onlyLength_code (o := .cnvRh) (fun _ _ => rfl) fun args => (readW_eq_none args).mpr

theorem exec_cnvGas (ticks : Word) (s : State) :
    exec (.cnvGas ticks) s = .next { answered s (0x00 :: enc32s (s.vocIndex ticks)) with
      voc := (Config.vocProcess s.params.idxBits s.voc ticks).1 } := rfl

/-- Settles O16: the index comes from the collaborator's state before the call, and its width lets it fit a field. -/
theorem cnvGasCallsTheCollaboratorOnce : Obligations.CnvGasCallsTheCollaboratorOnce := by
  intro ticks s hwf
  refine ⟨fun p => ?_, ?_, _, exec_cnvGas ticks s, carries_vocIndex hwf ticks⟩
  · exact decode_code_bytes16 (o := .cnvGas) (fun _ _ => rfl) p ticks
  · exact onlyLength_code (o := .cnvGas) (fun _ _ => rfl) fun args => (readW_eq_none args).mpr

/-! ## The measurement pipeline (R129, R130, R131) -/

theorem decodeWord_of_valid {g : FramedWord} (h : valid g = true) : decodeWord g = some (g.hi ++ g.lo) :=
  decodeWord_eq_some_iff.mpr ⟨h, rfl⟩

theorem decodeWord_of_invalid {g : FramedWord} (h : valid g = false) : decodeWord g = none := by
  rw [decodeWord, groupValid_eq_valid, h]
  rfl

/-- One quantity of a measurement: the bytes of its numerator when its word is valid, else no byte. -/
theorem carries_map_decodeWord {convert : Word → Int} {value : Word → Int}
    (hcarries : ∀ raw, Carries (enc32s (convert raw)) (value raw)) (g : FramedWord) :
    if valid g then Carries (((decodeWord g).map fun raw => enc32s (convert raw)).getD []) (value (g.hi ++ g.lo))
    else ((decodeWord g).map fun raw => enc32s (convert raw)).getD [] = [] := by
  split
  · next h => rw [decodeWord_of_valid h]; exact hcarries _
  · next h => rw [decodeWord_of_invalid (Bool.eq_false_iff.mpr h)]; rfl

theorem maskByte_pair (b0 b1 : Bool) :
    maskByte [b0, b1] = (if b0 then 0x01 else 0x00) ||| (if b1 then 0x02 else 0x00) := by
  cases b0 <;> cases b1 <;> decide

/-- Settles O17: the payload has two items, each present exactly when its own word is valid. -/
theorem measHtAnswersEachQuantityOnItsOwn : Obligations.MeasHtAnswersEachQuantityOnItsOwn := by
  intro g0 g1 s
  refine ⟨fun p => ?_, ?_, _, _, ?_, carries_map_decodeWord carries_convT g0,
    carries_map_decodeWord (carries_convRh s.params) g1⟩
  · exact decode_code_cons p .measHt (g0.bytes ++ g1.bytes)
  · exact onlyLength_code (o := .measHt) (fun _ _ => rfl) fun args => (readG2_eq_none args).mpr
  · rw [exec_measHt, maskedPayload_pair, maskByte_pair]
    simp [isSome_decodeWord, groupValid_eq_valid]

theorem exec_measGas_of_invalid {g : FramedWord} (h : valid g = false) (s : State) :
    exec (.measGas g) s = .next (answered s [0x00, 0x00]) := by
  rw [exec, execMeasGas, decodeWord_of_invalid h]
  rfl

theorem exec_measGas_of_valid {g : FramedWord} (h : valid g = true) (s : State) :
    exec (.measGas g) s = .next { answered s (0x00 :: 0x01 :: enc32s (s.vocIndex (g.hi ++ g.lo))) with
      voc := (Config.vocProcess s.params.idxBits s.voc (g.hi ++ g.lo)).1 } := by
  simp only [exec, execMeasGas, decodeWord_of_valid h, maskedPayload_singleton]
  rfl

/-- Settles O18: the validity of the word decides between the two answers, and so whether the collaborator is called. -/
theorem measGasCallsTheCollaboratorOnlyForAValidWord :
    Obligations.MeasGasCallsTheCollaboratorOnlyForAValidWord := by
  intro g s hwf
  refine ⟨fun p => ?_, ?_, fun hinvalid => exec_measGas_of_invalid hinvalid s,
    fun hvalid => ⟨_, exec_measGas_of_valid hvalid s, carries_vocIndex hwf _⟩⟩
  · exact decode_code_cons p .measGas g.bytes
  · exact onlyLength_code (o := .measGas) (fun _ _ => rfl) fun args => (readG_eq_none args).mpr

end Sys2Proof.Machine

/-! # Compensation: the domains, the codes and the three operations (R141 to R148)

Each operation is one equation: the domain checks decide between a framed code and a RANGE status, and the frame clauses
are those of its row. What is left is that a code fits its 16 bits, so the word framed has the value of the formula. -/

namespace Sys2Proof.Machine

open Sys2Proof.Reference

theorem readNN_eq_none (f : Frame) : readNN f = none ↔ f.length ≠ 8 := by
  rcases f with _ | ⟨_, _ | ⟨_, _ | ⟨_, _ | ⟨_, _ | ⟨_, _ | ⟨_, _ | ⟨_, _ | ⟨_, _ | _⟩⟩⟩⟩⟩⟩⟩⟩ <;> simp [readNN]

/-! ## The domains (R141) -/

theorem inDomainRh_iff {n : Field32} : inDomainRh n = true ↔ 0 ≤ n.toInt ∧ n.toInt ≤ 6553500 :=
  decide_eq_true_iff

theorem inDomainT_iff {n : Field32} : inDomainT n = true ↔ -2949075 ≤ n.toInt ∧ n.toInt ≤ 8519550 :=
  decide_eq_true_iff

/-! ## The codes fit 16 bits (R142 to R145) -/

theorem encT_eq (n : Int) : encT n = (2 * (n + 2949075) + 175) / 350 := rfl

theorem encRh_eq (p : Params) (n : Int) :
    encRh p n = (2 * (n - p.rhOffset * 65535) + p.rhSpan) / (2 * p.rhSpan) := rfl

theorem encT_fits {n : Int} (hlow : -2949075 ≤ n) (hhigh : n ≤ 8519550) : 0 ≤ encT n ∧ encT n < 65536 := by
  rw [encT_eq]
  omega

/-- A negative offset keeps the dividend positive, and a range beyond 100 %RH keeps it below the divisor times 65536. -/
theorem encRh_fits {p : Params} (hwf : p.Wf) {n : Int} (hlow : 0 ≤ n) (hhigh : n ≤ 6553500) :
    0 ≤ encRh p n ∧ encRh p n < 65536 := by
  obtain ⟨hspan, hoffset, hrange, -⟩ := hwf
  rw [encRh_eq]
  exact ⟨Int.ediv_nonneg (by omega) (by omega), Int.ediv_lt_of_lt_mul (by omega) (by omega)⟩

theorem toNat_ofInt16 {k : Int} (hfits : 0 ≤ k ∧ k < 65536) : ((BitVec.ofInt 16 k).toNat : Int) = k := by
  rw [BitVec.toNat_ofInt]
  omega

/-! ## The framed codes (R101, R140) -/

theorem bytes_encodeWord (v : Word) : (encodeWord v).bytes = framedBytes v :=
  congrArg ([hiByte v, loByte v, ·]) (crc8w_eq_serialCrc v)

theorem framedT_eq (n : Field32) : framedT n = framedBytes (BitVec.ofInt 16 (encT n.toInt)) :=
  bytes_encodeWord _

theorem framedRh_eq (p : Params) (n : Field32) : framedRh p n = framedBytes (BitVec.ofInt 16 (encRh p n.toInt)) :=
  bytes_encodeWord _

/-! ## The operations (R146, R147, R148) -/

theorem exec_cmpRh (n : Field32) (s : State) :
    exec (.cmpRh n) s = .next (answered s
      (if 0 ≤ n.toInt ∧ n.toInt ≤ 6553500 then 0x00 :: framedRh s.params n else [0x41])) := by
  simp only [exec, execCmpRh, inDomainRh_iff]
  split <;> rfl

theorem exec_cmpT (n : Field32) (s : State) :
    exec (.cmpT n) s = .next (answered s
      (if -2949075 ≤ n.toInt ∧ n.toInt ≤ 8519550 then 0x00 :: framedT n else [0x42])) := by
  simp only [exec, execCmpT, inDomainT_iff]
  split <;> rfl

theorem exec_cmpPair (n m : Field32) (s : State) :
    exec (.cmpPair n m) s = .next (answered s
      (if 0 ≤ n.toInt ∧ n.toInt ≤ 6553500 then
        if -2949075 ≤ m.toInt ∧ m.toInt ≤ 8519550 then 0x00 :: (framedRh s.params n ++ framedT m) else [0x42]
      else if -2949075 ≤ m.toInt ∧ m.toInt ≤ 8519550 then [0x41]
      else [0x43])) := by
  simp only [exec, execCmpPair, ← inDomainRh_iff, ← inDomainT_iff]
  cases inDomainRh n <;> cases inDomainT m <;> rfl

/-- Settles O19: in the domain the word framed has the code's value, because the code fits 16 bits. -/
theorem cmpRhAnswersTheFramedCodeOrRange : Obligations.CmpRhAnswersTheFramedCodeOrRange := by
  intro n s hwf
  refine ⟨fun p b0 b1 b2 b3 => ?_, ?_, fun hout => ?_,
    fun hin => ⟨.ofInt 16 (encRh s.params n.toInt), ?_, toNat_ofInt16 (encRh_fits hwf hin.1 hin.2)⟩⟩
  · exact decode_code_cons p .cmpRh [b0, b1, b2, b3]
  · exact onlyLength_code (o := .cmpRh) (fun _ _ => rfl) fun args => (readN_eq_none args).mpr
  · rw [exec_cmpRh, if_neg (by omega)]
  · rw [exec_cmpRh, if_pos hin, framedRh_eq]

/-- Settles O20: in the domain the word framed has the code's value, because the code fits 16 bits. -/
theorem cmpTAnswersTheFramedCodeOrRange : Obligations.CmpTAnswersTheFramedCodeOrRange := by
  intro n s
  refine ⟨fun p b0 b1 b2 b3 => ?_, ?_, fun hout => ?_,
    fun hin => ⟨.ofInt 16 (encT n.toInt), ?_, toNat_ofInt16 (encT_fits hin.1 hin.2)⟩⟩
  · exact decode_code_cons p .cmpT [b0, b1, b2, b3]
  · exact onlyLength_code (o := .cmpT) (fun _ _ => rfl) fun args => (readN_eq_none args).mpr
  · rw [exec_cmpT, if_neg (by omega)]
  · rw [exec_cmpT, if_pos hin, framedT_eq]

/-- Settles O21: the four cases are those of the two domain checks; the words are the ones CMP.RH and CMP.T answer. -/
theorem cmpPairAnswersBothWordsOrOneRange : Obligations.CmpPairAnswersBothWordsOrOneRange := by
  intro n m s _
  refine ⟨fun p b0 b1 b2 b3 b4 b5 b6 b7 => ?_, ?_, ?_⟩
  · exact decode_code_cons p .cmpPair [b0, b1, b2, b3, b4, b5, b6, b7]
  · exact onlyLength_code (o := .cmpPair) (fun _ _ => rfl) fun args => (readNN_eq_none args).mpr
  · rw [exec_cmpPair, exec_cmpRh, exec_cmpT]
    split_ifs
    · exact ⟨framedRh s.params n, framedT m, rfl, rfl, rfl⟩
    · rfl
    · rfl
    · rfl

end Sys2Proof.Machine

/-! # Status and serial number (R160 to R164)

Both operations are decided by the validity of their words. ST.DEC also compares the high byte of a valid word with the
sentinel; SN.DEC compares the mask of its three words with the full mask, which is the mask of three valid words only. -/

namespace Sys2Proof.Machine

open Sys2Proof.Reference

/-! ## The self-test (R160, R161) -/

/-- A word that decodes has the group's high byte as its own; one that does not decode never passes. -/
theorem selftestPass_iff {g : FramedWord} : selftestPass g = true ↔ valid g = true ∧ g.hi = 0xD4 := by
  rw [selftestPass, ← groupValid_eq_valid]
  obtain ⟨hv, hd⟩ | ⟨hv, hd⟩ := decodeWord_cases g
  · simp [hv, hd, selftestPassByte]
  · simp [hv, hd]

theorem exec_stDec (g : FramedWord) (s : State) :
    exec (.stDec g) s = .next (answered s [0x00, boolByte (selftestPass g)]) := rfl

/-- Settles O22: the Boolean answered is true exactly when the word is valid and its high byte is the sentinel. -/
theorem stDecAnswersPassOnlyForTheSentinel : Obligations.StDecAnswersPassOnlyForTheSentinel := by
  intro g s
  refine ⟨fun p => ?_, ?_, ?_⟩
  · exact decode_code_cons p .stDec g.bytes
  · exact onlyLength_code (o := .stDec) (fun _ _ => rfl) fun args => (readG_eq_none args).mpr
  · simp only [exec_stDec, boolByte, selftestPass_iff]

/-! ## The serial number (R162 to R164) -/

theorem readG3_eq_none (f : Frame) : readG3 f = none ↔ f.length ≠ 9 := by
  rcases f with _ | ⟨_, _ | ⟨_, _ | ⟨_, _ | ⟨_, _ | ⟨_, _ | ⟨_, _ | ⟨_, _ | ⟨_, _ | ⟨_, _ | _⟩⟩⟩⟩⟩⟩⟩⟩⟩ <;> simp [readG3]

theorem serialMask_eq (g0 g1 g2 : FramedWord) : serialMask g0 g1 g2 = maskByte ([g0, g1, g2].map valid) := by
  simp [serialMask, groupValid_eq_valid]

/-- The full mask of three items is the mask of three available ones only. -/
theorem maskByte_triple_eq_full_iff :
    ∀ b0 b1 b2 : Bool, maskByte [b0, b1, b2] = 0x07 ↔ (b0 && b1 && b2) = true := by
  decide

theorem exec_snDec (g0 g1 g2 : FramedWord) (s : State) :
    exec (.snDec g0 g1 g2) s = .next (answered s
      (if valid g0 && valid g1 && valid g2 then 0x00 :: 0x07 :: serialBytes g0 g1 g2
      else [0x00, maskByte ([g0, g1, g2].map valid)])) := by
  have hfull : maskByte ([g0, g1, g2].map valid) = 0x07 ↔ (valid g0 && valid g1 && valid g2) = true :=
    maskByte_triple_eq_full_iff ..
  simp only [exec, execSnDec, serialMask_eq, hfull]
  split <;> rfl

/-- Bit i of the mask of at most eight words is the validity of word i, and there is no further bit (R70). -/
theorem maskByte_map_valid_getLsbD {groups : List FramedWord} (hlen : groups.length ≤ 8) (i : Nat) :
    (maskByte (groups.map valid)).getLsbD i = groups[i]?.any valid := by
  rw [maskByte_getLsbD _ (by simpa using hlen)]
  cases hi : groups[i]? <;> simp [hi]

/-- Settles O23: the full mask, and with it the serial number, is answered exactly when all three words are valid. -/
theorem snDecAnswersTheSerialOnlyWhenAllAreValid : Obligations.SnDecAnswersTheSerialOnlyWhenAllAreValid := by
  intro g0 g1 g2 s
  refine ⟨fun p => ?_, ?_, fun hall => ?_, fun hnot => ⟨maskByte ([g0, g1, g2].map valid), ?_, fun i => ?_⟩⟩
  · exact decode_code_cons p .snDec (g0.bytes ++ g1.bytes ++ g2.bytes)
  · exact onlyLength_code (o := .snDec) (fun _ _ => rfl) fun args => (readG3_eq_none args).mpr
  · rw [exec_snDec, if_pos hall]
    rfl
  · rw [exec_snDec, if_neg (Bool.eq_false_iff.mp hnot)]
  · exact maskByte_map_valid_getLsbD (groups := [g0, g1, g2]) (by simp) i

end Sys2Proof.Machine

/-! # Request frames: encoding, decoding and the checks (R60 to R67, R74, R176)

Each operand reader is the inverse of the bytes an instruction is written with, so an accepted frame is the frame of its
instruction and the other way round. The checks of R176 are those of the decoder: `frameCheck_eq_refusalByte` reads the
status byte off the decoder's answer, and what a step does with a refused or an accepted frame follows. -/

namespace Sys2Proof.Machine

open Sys2Proof.Reference

/-! ## Each reader inverts its bytes (R63, R66, R67) -/

theorem readW_eq_some {f : Frame} {w : Word} : readW f = some w ↔ f = bytes16 w := by
  constructor
  · intro h
    rcases f with _ | ⟨b0, _ | ⟨b1, _ | _⟩⟩ <;>
      simp only [readW, reduceCtorEq, Option.some.injEq] at h
    subst h
    simp [bytes16]
  · rintro rfl
    exact congrArg some (be16_hiByte_loByte w)

theorem readG_eq_some {f : Frame} {g : FramedWord} : readG f = some g ↔ f = g.bytes := by
  constructor
  · intro h
    rcases f with _ | ⟨_, _ | ⟨_, _ | ⟨_, _ | _⟩⟩⟩ <;>
      simp only [readG, reduceCtorEq, Option.some.injEq] at h
    subst h
    rfl
  · rintro rfl
    rfl

theorem readG2_eq_some {f : Frame} {gs : FramedWord × FramedWord} :
    readG2 f = some gs ↔ f = gs.1.bytes ++ gs.2.bytes := by
  constructor
  · intro h
    rcases f with _ | ⟨_, _ | ⟨_, _ | ⟨_, _ | ⟨_, _ | ⟨_, _ | ⟨_, _ | _⟩⟩⟩⟩⟩⟩ <;>
      simp only [readG2, reduceCtorEq, Option.some.injEq] at h
    subst h
    rfl
  · rintro rfl
    rfl

theorem readG3_eq_some {f : Frame} {gs : FramedWord × FramedWord × FramedWord} :
    readG3 f = some gs ↔ f = gs.1.bytes ++ gs.2.1.bytes ++ gs.2.2.bytes := by
  constructor
  · intro h
    rcases f with _ | ⟨_, _ | ⟨_, _ | ⟨_, _ | ⟨_, _ | ⟨_, _ | ⟨_, _ | ⟨_, _ | ⟨_, _ | ⟨_, _ | _⟩⟩⟩⟩⟩⟩⟩⟩⟩ <;>
      simp only [readG3, reduceCtorEq, Option.some.injEq] at h
    subst h
    rfl
  · rintro rfl
    rfl

theorem readN_eq_some {f : Frame} {v : Field32} : readN f = some v ↔ f = bytes32 v := by
  constructor
  · intro h
    rcases f with _ | ⟨_, _ | ⟨_, _ | ⟨_, _ | ⟨_, _ | _⟩⟩⟩⟩ <;>
      simp only [readN, reduceCtorEq, Option.some.injEq] at h
    subst h
    simp
  · rintro rfl
    exact congrArg some (be32_bytes32 v)

theorem readNN_eq_some {f : Frame} {vs : Field32 × Field32} :
    readNN f = some vs ↔ f = bytes32 vs.1 ++ bytes32 vs.2 := by
  constructor
  · intro h
    rcases f with _ | ⟨_, _ | ⟨_, _ | ⟨_, _ | ⟨_, _ | ⟨_, _ | ⟨_, _ | ⟨_, _ | ⟨_, _ | _⟩⟩⟩⟩⟩⟩⟩⟩ <;>
      simp only [readNN, reduceCtorEq, Option.some.injEq] at h
    subst h
    simp
  · rintro rfl
    exact congrArg some (Prod.ext (be32_bytes32 vs.1) (be32_bytes32 vs.2))

/-! ## Decoding inverts encoding (R60, R74) -/

/-- Operands written as their row writes them are read back. -/
theorem withOperands_of_bytes {α : Type} {mk : α → Instr} {read : Frame → Option α} {bytes : α → Frame}
    (hread : ∀ {f a}, read f = some a ↔ f = bytes a) (a : α) : withOperands mk (read (bytes a)) = .ok (mk a) := by
  rw [hread.mpr rfl, withOperands]

/-- The operands of a well-formed instruction are read back; the count of FRM.DECK fits its byte as KMAX does. -/
theorem decodeOperands_operandBytes {p : Params} (hkmax : p.kmax < 256) {i : Instr} (hi : WellFormed p i = true) :
    decodeOperands p i.opcode i.operandBytes = .ok i := by
  cases i with
  | crcCompute w => exact withOperands_of_bytes readW_eq_some w
  | crcValidate g => exact withOperands_of_bytes readG_eq_some g
  | frmEnc v => exact withOperands_of_bytes readW_eq_some v
  | frmDec g => exact withOperands_of_bytes readG_eq_some g
  | frmDeck groups =>
    have hcount : groups.length ≤ p.kmax := by simpa [WellFormed] using hi
    exact (decode_code_cons p .frmDeck _).symm.trans (decode_frmDeck_bytes (by omega) hcount)
  | cnvT raw => exact withOperands_of_bytes readW_eq_some raw
  | cnvRh raw => exact withOperands_of_bytes readW_eq_some raw
  | cnvGas ticks => exact withOperands_of_bytes readW_eq_some ticks
  | measHt g0 g1 => exact withOperands_of_bytes (mk := fun gs => .measHt gs.1 gs.2) readG2_eq_some (g0, g1)
  | measGas g => exact withOperands_of_bytes readG_eq_some g
  | cmpRh n => exact withOperands_of_bytes readN_eq_some n
  | cmpT n => exact withOperands_of_bytes readN_eq_some n
  | cmpPair n m => exact withOperands_of_bytes (mk := fun ns => .cmpPair ns.1 ns.2) readNN_eq_some (n, m)
  | stDec g => exact withOperands_of_bytes readG_eq_some g
  | snDec g0 g1 g2 =>
    exact withOperands_of_bytes (mk := fun gs => .snDec gs.1 gs.2.1 gs.2.2) readG3_eq_some (g0, g1, g2)

/-- Settles O1: the opcode byte selects the instruction's row, and the row's reader inverts the operand bytes. -/
theorem decodeReadsBackEveryEncodedInstruction : Obligations.DecodeReadsBackEveryEncodedInstruction := by
  intro p i hwf hi
  obtain ⟨-, -, -, -, -, -, -, hkmax, -, -⟩ := hwf
  calc decode p (encode i)
    _ = decodeOperands p i.opcode i.operandBytes := decode_code_cons ..
    _ = .ok i := decodeOperands_operandBytes (by omega) hi

/-- Operands accepted in a row are the bytes of the instruction they make. -/
theorem encode_of_withOperands {α : Type} {p : Params} {o : Opcode} {mk : α → Instr} {read : Frame → Option α}
    {bytes : α → Frame} {args : Frame} {i : Instr} (hread : ∀ {f a}, read f = some a ↔ f = bytes a)
    (hmk : ∀ a, encode (mk a) = o.code :: bytes a ∧ WellFormed p (mk a) = true)
    (h : withOperands mk (read args) = .ok i) : encode i = o.code :: args ∧ WellFormed p i = true := by
  obtain ⟨a, ha, rfl⟩ := withOperands_eq_ok h
  rw [hread.mp ha]
  exact hmk a

/-- The groups accepted are as many as the count byte says, which is at most KMAX. -/
theorem encode_of_decodeDeck {p : Params} {args : Frame} {i : Instr} (h : decodeDeck p args = .ok i) :
    encode i = Opcode.frmDeck.code :: args ∧ WellFormed p i = true := by
  cases args with
  | nil => simp [decodeDeck] at h
  | cons k body =>
    rw [decodeDeck] at h
    split at h
    · cases h
    · next hkmax =>
      obtain ⟨groups, hgroups, rfl⟩ := withOperands_eq_ok h
      obtain ⟨hlen, rfl⟩ := readGroups_eq_some _ _ _ hgroups
      constructor
      · simp [encode, Instr.opcode, Instr.operandBytes, hlen]
      · simp [WellFormed, hlen]
        omega

/-- Whatever row reads the operands, the frame is the encoding of what it reads. -/
theorem encode_of_decodeOperands {p : Params} {o : Opcode} {args : Frame} {i : Instr}
    (h : decodeOperands p o args = .ok i) : encode i = o.code :: args ∧ WellFormed p i = true := by
  cases o with
  | crcCompute => exact encode_of_withOperands readW_eq_some (fun _ => ⟨rfl, rfl⟩) h
  | crcValidate => exact encode_of_withOperands readG_eq_some (fun _ => ⟨rfl, rfl⟩) h
  | frmEnc => exact encode_of_withOperands readW_eq_some (fun _ => ⟨rfl, rfl⟩) h
  | frmDec => exact encode_of_withOperands readG_eq_some (fun _ => ⟨rfl, rfl⟩) h
  | frmDeck => exact encode_of_decodeDeck h
  | cnvT => exact encode_of_withOperands readW_eq_some (fun _ => ⟨rfl, rfl⟩) h
  | cnvRh => exact encode_of_withOperands readW_eq_some (fun _ => ⟨rfl, rfl⟩) h
  | cnvGas => exact encode_of_withOperands readW_eq_some (fun _ => ⟨rfl, rfl⟩) h
  | measHt => exact encode_of_withOperands readG2_eq_some (fun _ => ⟨rfl, rfl⟩) h
  | measGas => exact encode_of_withOperands readG_eq_some (fun _ => ⟨rfl, rfl⟩) h
  | cmpRh => exact encode_of_withOperands readN_eq_some (fun _ => ⟨rfl, rfl⟩) h
  | cmpT => exact encode_of_withOperands readN_eq_some (fun _ => ⟨rfl, rfl⟩) h
  | cmpPair => exact encode_of_withOperands readNN_eq_some (fun _ => ⟨rfl, rfl⟩) h
  | stDec => exact encode_of_withOperands readG_eq_some (fun _ => ⟨rfl, rfl⟩) h
  | snDec => exact encode_of_withOperands readG3_eq_some (fun _ => ⟨rfl, rfl⟩) h

/-- Settles O2: an accepted frame begins with the opcode byte of a row, whose reader gave the instruction. -/
theorem acceptedFrameIsItsInstructionsEncoding : Obligations.AcceptedFrameIsItsInstructionsEncoding := by
  intro p frame i h
  cases frame with
  | nil => simp [decode] at h
  | cons op args =>
    rw [decode] at h
    cases hop : opcodeOf op with
    | none => simp [hop] at h
    | some o =>
      rw [← code_of_opcodeOf hop]
      exact encode_of_decodeOperands (by simpa [hop] using h)

/-- Settles O3, by evaluation of the decoder on the six frames. -/
theorem framesOfTheVectorsDecode : Obligations.FramesOfTheVectorsDecode :=
  ⟨rfl, rfl, rfl, rfl, rfl, rfl⟩

/-! ## The checks are the decoder's (R62, R74, R176) -/

/-- The status byte with which a decoder's answer is refused; none when it is an instruction. -/
def refusalByte : Except Illegal Instr → Option Byte
  | .error e => some (illegalStatus e).code
  | .ok _ => none

theorem frameLength_eq_none_iff (op count : Nat) : frameLength op count = none ↔ frameLength op 0 = none := by
  unfold frameLength
  split_ifs <;> simp

/-- Every byte that is no opcode byte is reserved. -/
theorem frameLength_of_reserved : ∀ op : Byte, opcodeOf op = none → frameLength op.toNat 0 = none := by
  decide

/-- Column "frame length" is the length of the row's format. -/
theorem frameLength_code (o : Opcode) (count : Nat) :
    frameLength o.code.toNat count = some (o.format.frameLength count) := by
  cases o <;> rfl

theorem refusalByte_withOperands {α : Type} {mk : α → Instr} {read : Frame → Option α} {n : Nat}
    (hread : ∀ f, read f = none ↔ f.length ≠ n) (args : Frame) :
    refusalByte (withOperands mk (read args)) = if args.length ≠ n then some 0x82 else none := by
  cases hargs : read args with
  | none => rw [if_pos ((hread args).mp hargs)]; rfl
  | some a => rw [if_neg fun hlen => by simp [(hread args).mpr hlen] at hargs]; rfl

theorem code_eq_deck_iff (o : Opcode) : o.code = 0x22 ↔ o = .frmDeck := by
  cases o <;> decide

/-- The checks (2) to (5) of a frame that begins with a row's opcode byte. -/
theorem frameCheck_code_cons (kmax : Nat) (o : Opcode) (args : Frame) :
    frameCheck kmax (o.code :: args) =
      if o = .frmDeck ∧ args = [] then some 0x82
      else if o = .frmDeck ∧ kmax < (args.headD 0).toNat then some 0x83
      else if args.length + 1 ≠ o.format.frameLength (args.headD 0).toNat then some 0x82
      else none := by
  simp only [frameCheck, frameLength_code, code_eq_deck_iff, List.length_cons]

/-- A row with one length checks the length only, as its reader does. -/
theorem frameCheck_of_withOperands {α : Type} {mk : α → Instr} {read : Frame → Option α} {n : Nat} (o : Opcode)
    (ho : o ≠ .frmDeck) (hn : ∀ count, o.format.frameLength count = n + 1)
    (hread : ∀ f, read f = none ↔ f.length ≠ n) (kmax : Nat) (args : Frame) :
    frameCheck kmax (o.code :: args) = refusalByte (withOperands mk (read args)) := by
  simp [frameCheck_code_cons, refusalByte_withOperands hread, ho, hn]

/-- FRM.DECK checks that there is a count byte, then the count, then the length, as the decoder does. -/
theorem frameCheck_frmDeck (p : Params) (args : Frame) :
    frameCheck p.kmax (Opcode.frmDeck.code :: args) = refusalByte (decodeDeck p args) := by
  rw [frameCheck_code_cons]
  cases args with
  | nil => rfl
  | cons k body =>
    have hlen : body.length + 1 + 1 = 2 + 3 * k.toNat ↔ body.length = 3 * k.toNat := by omega
    rw [decodeDeck, apply_ite refusalByte, refusalByte_withOperands (readGroups_eq_none k.toNat)]
    simp [Opcode.format, Format.frameLength, hlen, refusalByte, illegalStatus, Status.code]

theorem frameCheck_code_cons_eq_refusalByte (p : Params) (o : Opcode) (args : Frame) :
    frameCheck p.kmax (o.code :: args) = refusalByte (decodeOperands p o args) := by
  cases o with
  | frmDeck => exact frameCheck_frmDeck p args
  | crcCompute => exact frameCheck_of_withOperands .crcCompute nofun (fun _ => rfl) readW_eq_none _ _
  | crcValidate => exact frameCheck_of_withOperands .crcValidate nofun (fun _ => rfl) readG_eq_none _ _
  | frmEnc => exact frameCheck_of_withOperands .frmEnc nofun (fun _ => rfl) readW_eq_none _ _
  | frmDec => exact frameCheck_of_withOperands .frmDec nofun (fun _ => rfl) readG_eq_none _ _
  | cnvT => exact frameCheck_of_withOperands .cnvT nofun (fun _ => rfl) readW_eq_none _ _
  | cnvRh => exact frameCheck_of_withOperands .cnvRh nofun (fun _ => rfl) readW_eq_none _ _
  | cnvGas => exact frameCheck_of_withOperands .cnvGas nofun (fun _ => rfl) readW_eq_none _ _
  | measHt => exact frameCheck_of_withOperands .measHt nofun (fun _ => rfl) readG2_eq_none _ _
  | measGas => exact frameCheck_of_withOperands .measGas nofun (fun _ => rfl) readG_eq_none _ _
  | cmpRh => exact frameCheck_of_withOperands .cmpRh nofun (fun _ => rfl) readN_eq_none _ _
  | cmpT => exact frameCheck_of_withOperands .cmpT nofun (fun _ => rfl) readN_eq_none _ _
  | cmpPair => exact frameCheck_of_withOperands .cmpPair nofun (fun _ => rfl) readNN_eq_none _ _
  | stDec => exact frameCheck_of_withOperands .stDec nofun (fun _ => rfl) readG_eq_none _ _
  | snDec => exact frameCheck_of_withOperands .snDec nofun (fun _ => rfl) readG3_eq_none _ _

/-- A reserved opcode byte fails check (2), whatever follows it. -/
theorem frameCheck_of_reserved {op : Byte} (h : frameLength op.toNat 0 = none) (kmax : Nat) (args : Frame) :
    frameCheck kmax (op :: args) = some 0x81 := by
  rw [frameCheck, (frameLength_eq_none_iff ..).mpr h]

/-- The first failing check gives the status byte with which the decoder's answer is refused. -/
theorem frameCheck_eq_refusalByte (p : Params) (frame : Frame) :
    frameCheck p.kmax frame = refusalByte (decode p frame) := by
  cases frame with
  | nil => rfl
  | cons op args =>
    cases hop : opcodeOf op with
    | none =>
      rw [frameCheck_of_reserved (frameLength_of_reserved op hop), decode, hop]
      rfl
    | some o =>
      rw [← code_of_opcodeOf hop, decode_code_cons, frameCheck_code_cons_eq_refusalByte]

theorem decode_of_frameCheck_some {p : Params} {frame : Frame} {status : Byte}
    (h : frameCheck p.kmax frame = some status) :
    ∃ e, decode p frame = .error e ∧ (illegalStatus e).code = status := by
  rw [frameCheck_eq_refusalByte] at h
  cases hd : decode p frame with
  | error e => exact ⟨e, rfl, by simpa [hd, refusalByte] using h⟩
  | ok i => simp [hd, refusalByte] at h

theorem decode_of_frameCheck_none {p : Params} {frame : Frame} (h : frameCheck p.kmax frame = none) :
    ∃ i, decode p frame = .ok i := by
  rw [frameCheck_eq_refusalByte] at h
  cases hd : decode p frame with
  | error e => simp [hd, refusalByte] at h
  | ok i => exact ⟨i, rfl⟩

/-! ## What a step does with a frame (R74, R178) -/

/-- Settles O4: the decoder's answer is what the request is handled by. -/
theorem stepRunsTheDecodedInstruction : Obligations.StepRunsTheDecodedInstruction := by
  intro s frame rest i hevents hdecode
  rw [step_event hevents, handleEvent, handleRequest, hdecode]
  rfl

theorem decode_of_decodeTableWord {nbits w : Nat} {i : Instr} (h : decodeTableWord nbits w = some i) :
    decode defaultParams (tableFrame nbits w) = .ok i := by
  unfold decodeTableWord at h
  cases hd : decode defaultParams (tableFrame nbits w) <;> simp_all

/-- Settles O5: the table word's frame is the host's next request. -/
theorem nextStepRunsATableWord : Obligations.NextStepRunsATableWord := by
  intro s nbits w i hparams hword
  refine stepRunsTheDecodedInstruction _ _ s.events i (s.withFetchWord_events nbits w) ?_
  rw [State.withFetchWord_params, hparams]
  exact decode_of_decodeTableWord hword

/-- Settles O6: the decoder refuses such a frame, and a refusal is one status byte and nothing else. -/
theorem refusedFrameAnswersFirstFailingCheck : Obligations.RefusedFrameAnswersFirstFailingCheck := by
  intro s frame rest status hevents hcheck
  obtain ⟨e, hdecode, rfl⟩ := decode_of_frameCheck_some hcheck
  rw [step_event hevents, handleEvent, handleRequest, hdecode]
  simp [answerRefused_eq, State.emit, served]

/-- Settles O7: the decoder accepts such a frame, which is then the encoding of what it reads. -/
theorem checkedFrameIsExecuted : Obligations.CheckedFrameIsExecuted := by
  intro s frame rest hevents hcheck
  obtain ⟨i, hdecode⟩ := decode_of_frameCheck_none hcheck
  obtain ⟨hencode, hwf⟩ := acceptedFrameIsItsInstructionsEncoding _ _ _ hdecode
  exact ⟨i, hencode, hwf, stepRunsTheDecodedInstruction s frame rest i hevents hdecode⟩

/-- The bytes below 0x52 are counted by evaluation; from there on none is an opcode byte. -/
theorem length_filter_reserved :
    ((List.range 256).filter fun op => (frameLength op 0).isNone).length = 241 := by
  have below : ((List.range' 0 82).filter fun op => (frameLength op 0).isNone).length = 67 := by decide
  have above : (List.range' 82 174).filter (fun op => (frameLength op 0).isNone) = List.range' 82 174 := by
    refine List.filter_eq_self.mpr fun op hop => ?_
    have hge : 82 ≤ op := (List.mem_range'_1.mp hop).1
    simp only [frameLength, List.mem_cons, List.not_mem_nil]
    grind
  rw [List.range_eq_range', ← List.range'_append_1 (s := 0) (m := 82) (n := 174), List.filter_append,
    List.length_append, below, above, List.length_range']

/-- Settles O8: the bytes are counted by evaluation; a reserved byte fails check (2). -/
theorem reservedOpcodeBytesAreRefused : Obligations.ReservedOpcodeBytesAreRefused := by
  refine ⟨length_filter_reserved, fun s op args rest hevents hreserved => ?_⟩
  exact refusedFrameAnswersFirstFailingCheck s _ rest 0x81 hevents (frameCheck_of_reserved hreserved _ args)

end Sys2Proof.Machine

/-! # Responses and the steps that give them (R61, R64, R73, R30, R51)

`responseTo` names the response of an instruction: a function of the parameters, the collaborator's state and the
instruction, and for all but the gas operations not of the collaborator either. With it every step on a request is one
equation, `step_request`; lengths are counted on `responseTo`, and what a step does to the history follows. -/

namespace Sys2Proof.Machine

open Sys2Proof.Reference

/-! ## The response of an instruction -/

/-- The response to an instruction, on a block with these parameters and a collaborator in this state. -/
def responseTo (p : Params) (voc : VocState) : Instr → Frame
  | .crcCompute w => [0x00, crc8w w]
  | .crcValidate g => [0x00, boolByte (groupValid g)]
  | .frmEnc v => 0x00 :: (encodeWord v).bytes
  | .frmDec g => 0x00 :: maskedPayload ([decodeWord g].map (Option.map bytes16))
  | .frmDeck groups => 0x00 :: maskedPayload ((decodeMulti groups).map (Option.map bytes16))
  | .cnvT raw => 0x00 :: enc32s (convT raw)
  | .cnvRh raw => 0x00 :: enc32s (convRh p raw)
  | .cnvGas ticks => 0x00 :: enc32s (Config.vocProcess p.idxBits voc ticks).2.toInt
  | .measHt g0 g1 => 0x00 :: maskedPayload
      ([(decodeWord g0).map convT, (decodeWord g1).map (convRh p)].map (Option.map enc32s))
  | .measGas g => 0x00 :: maskedPayload
      ([(decodeWord g).map fun ticks => (Config.vocProcess p.idxBits voc ticks).2.toInt].map (Option.map enc32s))
  | .cmpRh n => if 0 ≤ n.toInt ∧ n.toInt ≤ 6553500 then 0x00 :: framedRh p n else [0x41]
  | .cmpT n => if -2949075 ≤ n.toInt ∧ n.toInt ≤ 8519550 then 0x00 :: framedT n else [0x42]
  | .cmpPair n m =>
      if 0 ≤ n.toInt ∧ n.toInt ≤ 6553500 then
        if -2949075 ≤ m.toInt ∧ m.toInt ≤ 8519550 then 0x00 :: (framedRh p n ++ framedT m) else [0x42]
      else if -2949075 ≤ m.toInt ∧ m.toInt ≤ 8519550 then [0x41] else [0x43]
  | .stDec g => [0x00, boolByte (selftestPass g)]
  | .snDec g0 g1 g2 =>
      if valid g0 && valid g1 && valid g2 then 0x00 :: 0x07 :: serialBytes g0 g1 g2
      else [0x00, maskByte ([g0, g1, g2].map valid)]

/-- Executing an instruction gives its response and calls the collaborator as `vocAfter` says; nothing else changes. -/
theorem exec_eq_responseTo (i : Instr) (s : State) :
    exec i s = .next { answered s (responseTo s.params s.voc i) with voc := s.vocAfter i } := by
  cases i with
  | measGas g =>
    simp only [exec, execMeasGas, responseTo, State.vocAfter, gasTicks]
    cases decodeWord g <;> rfl
  | measHt g0 g1 =>
    simp only [exec_measHt, responseTo, List.map_cons, Option.map_map, List.map_nil]
    rfl
  | cmpRh n => exact exec_cmpRh n s
  | cmpT n => exact exec_cmpT n s
  | cmpPair n m => exact exec_cmpPair n m s
  | snDec g0 g1 g2 => exact exec_snDec g0 g1 g2 s
  | _ => rfl

theorem vocAfter_measGas (g : FramedWord) (s : State) :
    s.vocAfter (.measGas g) =
      if valid g then (Config.vocProcess s.params.idxBits s.voc (g.hi ++ g.lo)).1 else s.voc := by
  rw [State.vocAfter, gasTicks]
  split
  · next h => rw [decodeWord_of_valid h]; rfl
  · next h => rw [decodeWord_of_invalid (Bool.eq_false_iff.mpr h)]; rfl

/-- Settles O24: of the state after an instruction all is known; only a gas operation has ticks for the collaborator. -/
theorem onlyGasOperationsWriteTheCollaborator : Obligations.OnlyGasOperationsWriteTheCollaborator := by
  intro i s t h
  rw [exec_eq_responseTo] at h
  obtain rfl := Host.Outcome.next.inj h
  refine ⟨rfl, rfl, rfl, ⟨_, rfl⟩, ?_⟩
  cases i with
  | measGas g => exact vocAfter_measGas g s
  | _ => rfl

/-- Only the responses of the two gas operations depend on the collaborator. -/
theorem responseTo_voc_irrelevant (p : Params) (voc voc' : VocState) {i : Instr} (hcnv : i.opcode ≠ .cnvGas)
    (hmeas : i.opcode ≠ .measGas) : responseTo p voc i = responseTo p voc' i := by
  cases i with
  | cnvGas ticks => exact absurd rfl hcnv
  | measGas g => exact absurd rfl hmeas
  | _ => rfl

/-! ## The step on a request -/

/-- The response to a request frame. -/
def replyTo (p : Params) (voc : VocState) (frame : Frame) : Frame :=
  match decode p frame with
  | .error e => [(illegalStatus e).code]
  | .ok i => responseTo p voc i

theorem replyTo_of_error {p : Params} {voc : VocState} {frame : Frame} {e : Illegal} (h : decode p frame = .error e) :
    replyTo p voc frame = [(illegalStatus e).code] := by
  rw [replyTo, h]

theorem replyTo_of_ok {p : Params} {voc : VocState} {frame : Frame} {i : Instr} (h : decode p frame = .ok i) :
    replyTo p voc frame = responseTo p voc i := by
  rw [replyTo, h]

theorem handleRequest_eq (frame : Frame) (s : State) :
    handleRequest frame s = .next { served s s.events frame (replyTo s.params s.voc frame) with
      voc := vocWhenDone frame s } := by
  cases hd : decode s.params frame with
  | error e =>
    rw [vocWhenDone_of_error hd, replyTo_of_error hd, handleRequest, hd]
    simp [answerRefused_eq, State.emit, served]
  | ok i =>
    rw [vocWhenDone_of_ok hd, replyTo_of_ok hd, handleRequest, hd]
    simp [exec_eq_responseTo, served, answered]

/-- What an instruction does to the collaborator depends on the parameters and the collaborator only. -/
theorem State.vocAfter_congr {s1 s2 : State} (hparams : s1.params = s2.params) (hvoc : s1.voc = s2.voc) (i : Instr) :
    s1.vocAfter i = s2.vocAfter i := by
  simp only [State.vocAfter, State.afterVoc_voc]
  rw [hparams, hvoc]

/-- What a whole request does to the collaborator depends on the parameters and the collaborator only. -/
theorem vocWhenDone_congr {s1 s2 : State} (hparams : s1.params = s2.params) (hvoc : s1.voc = s2.voc) (frame : Frame) :
    vocWhenDone frame s1 = vocWhenDone frame s2 := by
  cases hd : decode s1.params frame with
  | error e => rw [vocWhenDone_of_error hd, vocWhenDone_of_error (hparams ▸ hd), hvoc]
  | ok i =>
    rw [vocWhenDone_of_ok hd, vocWhenDone_of_ok (hparams ▸ hd), State.vocAfter_congr hparams hvoc]

/-- A step on a request: the action is used up, the request and its response are in the history, and the collaborator is
as the request leaves it. -/
theorem step_request {s : State} {frame : Frame} {rest : List HostEvent} (h : s.events = .request frame :: rest) :
    step s = .next { served s rest frame (replyTo s.params s.voc frame) with voc := vocWhenDone frame s } := by
  have hvoc : vocWhenDone frame { s with events := rest } = vocWhenDone frame s :=
    vocWhenDone_congr (s1 := { s with events := rest }) (s2 := s) rfl rfl frame
  rw [step_event h, handleEvent, handleRequest_eq, hvoc]
  rfl

/-! ## The length of a response (R64, R70, R73) -/

/-- The bits set in a mask of at most eight items are the available items. -/
theorem popCount_maskByte {bs : List Bool} (hlen : bs.length ≤ 8) : popCount (maskByte bs) = bs.countP id := by
  have count_range : ∀ (bs : List Bool) (n : Nat), bs.length ≤ n →
      (List.range n).countP (fun i => bs.getD i false) = bs.countP id := by
    intro bs
    induction bs with
    | nil => intro n _; simp
    | cons b bs ih =>
      rintro (_ | n) hn
      · simp at hn
      · have tail := ih n (by simpa using hn)
        rw [List.range_succ_eq_map, List.countP_cons, List.countP_map, List.countP_cons, ← tail]
        rfl
  simp only [popCount, maskByte_getLsbD bs hlen, ← List.countP_eq_length_filter, count_range bs 8 hlen]

/-- A masked payload of values of n bytes each is the mask and n bytes for each available value. -/
theorem length_maskedPayload {α : Type} {f : α → Frame} {n : Nat} (hf : ∀ a, (f a).length = n)
    (values : List (Option α)) :
    (maskedPayload (values.map (Option.map f))).length = 1 + n * (values.map Option.isSome).countP id := by
  have bytes : ((values.map (Option.map f)).flatMap (Option.getD · [])).length =
      n * (values.map Option.isSome).countP id := by
    induction values with
    | nil => rfl
    | cons value values ih =>
      simp only [List.map_cons, List.flatMap_cons, List.length_append, ih, List.countP_cons]
      cases value with
      | none => simp
      | some a => simp [hf a, Nat.mul_add, Nat.add_comm]
  rw [maskedPayload, List.length_cons, bytes, Nat.add_comm]

theorem length_bytes16 (w : Word) : (bytes16 w).length = 2 := rfl

theorem length_enc32s (n : Int) : (enc32s n).length = 4 := rfl

/-! ## Every response has the length of the payload table (R61, R73) -/

theorem responseFits_done {request payload : Frame}
    (h : payload.length + 1 = responseLength (request.headD 0) 0x00 (payload.headD 0)) :
    responseFits request (0x00 :: payload) = true := by
  simp only [responseFits, h, beq_self_eq_true, Bool.and_true]
  rfl

/-- Any status but DONE stands alone. -/
theorem responseFits_refused {st : Status} (hst : st ≠ .done) (request : Frame) :
    responseFits request [st.code] = true := by
  have hcode : st.code ≠ 0x00 := by cases st <;> simp_all [Status.code]
  have hlength : responseLength (request.headD 0) st.code (([] : Frame).headD 0) = 1 := if_pos hcode
  rw [responseFits, hlength]
  simpa using st.code_mem_statusBytes

/-- A masked payload fits when its opcode's row has n bytes for each bit set in the mask. -/
theorem responseFits_masked {α : Type} {request : Frame} {f : α → Frame} {n : Nat} (hf : ∀ a, (f a).length = n)
    (hop : ∀ m, responseLength (request.headD 0) 0x00 m = 2 + n * popCount m) {values : List (Option α)}
    (hlen : values.length ≤ 8) : responseFits request (0x00 :: maskedPayload (values.map (Option.map f))) = true := by
  have mask : (maskedPayload (values.map (Option.map f))).headD 0 = maskByte (values.map Option.isSome) := by
    simp only [maskedPayload, List.headD_cons, List.map_map, Function.comp_def, Option.isSome_map]
  apply responseFits_done
  rw [mask, hop, popCount_maskByte (by simpa using hlen), length_maskedPayload hf]
  omega

/-- The serial number's payload is the full mask and six bytes, or another mask alone. -/
theorem responseFits_snDec (p : Params) (voc : VocState) (g0 g1 g2 : FramedWord) :
    responseFits (encode (.snDec g0 g1 g2)) (responseTo p voc (.snDec g0 g1 g2)) = true := by
  rw [responseTo]
  split
  · rfl
  · next hall =>
    have hmask : maskByte ([g0, g1, g2].map valid) ≠ 0x07 := (maskByte_triple_eq_full_iff ..).not.mpr hall
    apply responseFits_done
    show 2 = if maskByte ([g0, g1, g2].map valid) = 0x07 then 8 else 2
    rw [if_neg hmask]

/-- With at most eight groups the response to an instruction has a legal status and its row's length. -/
theorem responseFits_responseTo {p : Params} (hkmax : p.kmax ≤ 8) (voc : VocState) {i : Instr}
    (hi : WellFormed p i = true) : responseFits (encode i) (responseTo p voc i) = true := by
  cases i with
  | frmDec g => exact responseFits_masked length_bytes16 (fun _ => rfl) (by simp)
  | frmDeck groups =>
    have hlen : groups.length ≤ p.kmax := by simpa [WellFormed] using hi
    exact responseFits_masked length_bytes16 (fun _ => rfl) (by simp [decodeMulti]; omega)
  | measHt g0 g1 => exact responseFits_masked length_enc32s (fun _ => rfl) (by simp)
  | measGas g => exact responseFits_masked length_enc32s (fun _ => rfl) (by simp)
  | cmpRh n =>
    rw [responseTo]
    split
    · exact responseFits_done rfl
    · rfl
  | cmpT n =>
    rw [responseTo]
    split
    · exact responseFits_done rfl
    · rfl
  | cmpPair n m =>
    rw [responseTo]
    split_ifs
    · exact responseFits_done rfl
    all_goals rfl
  | snDec g0 g1 g2 => exact responseFits_snDec p voc g0 g1 g2
  | _ => exact responseFits_done rfl

theorem illegalStatus_ne_done (e : Illegal) : illegalStatus e ≠ .done := by
  cases e <;> nofun

/-- Refused or executed, a request frame is answered at the length the host computes. -/
theorem responseFits_replyTo {p : Params} (hwf : p.Wf) (voc : VocState) (frame : Frame) :
    responseFits frame (replyTo p voc frame) = true := by
  obtain ⟨-, -, -, -, -, -, -, hkmax, -, -⟩ := hwf
  cases hd : decode p frame with
  | error e =>
    rw [replyTo_of_error hd]
    exact responseFits_refused (illegalStatus_ne_done e) frame
  | ok i =>
    obtain ⟨rfl, hi⟩ := acceptedFrameIsItsInstructionsEncoding _ _ _ hd
    rw [replyTo_of_ok hd]
    exact responseFits_responseTo hkmax voc hi

/-- Settles O26: a refusal is one byte, and an accepted frame is the encoding of the instruction answered. -/
theorem responseLengthFollowsStatusAndMask : Obligations.ResponseLengthFollowsStatusAndMask := by
  intro s frame rest hwf hevents
  exact ⟨_, _, step_request hevents, responseFits_replyTo hwf s.voc frame⟩

/-! ## Bounds (R42, log entry 15) -/

/-- A masked payload of k values of n bytes has at most 1 + n k bytes. -/
theorem length_maskedPayload_le {α : Type} {f : α → Frame} {n : Nat} (hf : ∀ a, (f a).length = n)
    (values : List (Option α)) : (maskedPayload (values.map (Option.map f))).length ≤ 1 + n * values.length := by
  have hcount : (values.map Option.isSome).countP id ≤ values.length := by simpa using List.countP_le_length
  rw [length_maskedPayload hf]
  exact Nat.add_le_add_left (Nat.mul_le_mul_left n hcount) 1

theorem length_responseTo_le {p : Params} (voc : VocState) {i : Instr} (hi : WellFormed p i = true) :
    (responseTo p voc i).length ≤ max 10 (2 + 2 * p.kmax) := by
  have ten {k : Nat} (h : k.ble 10 = true) : k ≤ max 10 (2 + 2 * p.kmax) := le_max_of_le_left (Nat.le_of_ble_eq_true h)
  cases i with
  | frmDeck groups =>
    have hlen : groups.length ≤ p.kmax := by simpa [WellFormed] using hi
    have hpayload := length_maskedPayload_le length_bytes16 (decodeMulti groups)
    rw [decodeMulti, List.length_map] at hpayload
    rw [responseTo, List.length_cons, decodeMulti]
    omega
  | frmDec g => exact le_max_of_le_left (Nat.succ_le_succ ((length_maskedPayload_le length_bytes16 _).trans (by simp)))
  | measHt g0 g1 => exact le_max_of_le_left (Nat.succ_le_succ (length_maskedPayload_le length_enc32s _))
  | measGas g => exact le_max_of_le_left (Nat.succ_le_succ ((length_maskedPayload_le length_enc32s _).trans (by simp)))
  | cmpRh n => rw [responseTo]; split <;> exact ten rfl
  | cmpT n => rw [responseTo]; split <;> exact ten rfl
  | cmpPair n m => rw [responseTo]; split_ifs <;> exact ten rfl
  | snDec g0 g1 g2 => rw [responseTo]; split <;> exact ten rfl
  | _ => exact ten rfl

/-- A refusal is one byte; an instruction's response has its own bound. -/
theorem length_replyTo_le (p : Params) (voc : VocState) (frame : Frame) :
    (replyTo p voc frame).length ≤ max 10 (2 + 2 * p.kmax) := by
  cases hd : decode p frame with
  | error e =>
    rw [replyTo_of_error hd, List.length_singleton]
    omega
  | ok i =>
    obtain ⟨-, hi⟩ := acceptedFrameIsItsInstructionsEncoding _ _ _ hd
    rw [replyTo_of_ok hd]
    exact length_responseTo_le voc hi

/-- The longest frame of a fixed length is SN.DEC's ten bytes, within FRM.DECK's bound from KMAX 3 on. -/
theorem length_encode_le {p : Params} (hkmax : 3 ≤ p.kmax) {i : Instr} (hi : WellFormed p i = true) :
    (encode i).length ≤ 2 + 3 * p.kmax := by
  cases i with
  | frmDeck groups =>
    have hlen : groups.length ≤ p.kmax := by simpa [WellFormed] using hi
    obtain ⟨-, -, hframe⟩ := Laws.FrameShape.frmDeck groups
    rw [hframe, Laws.FrameShape.count, Instr.opcode, Opcode.format, Format.frameLength]
    omega
  | _ =>
    exact (Nat.le_of_ble_eq_true rfl : _ ≤ 10).trans (by omega)

/-- Settles O27: an accepted frame is an encoding, and the response is that of `length_replyTo_le`. -/
theorem framesAndResponsesAreBounded : Obligations.FramesAndResponsesAreBounded := by
  intro s frame rest hwf hevents
  refine ⟨fun i hd => ?_, _, _, step_request hevents, length_replyTo_le s.params s.voc frame⟩
  obtain ⟨rfl, hi⟩ := acceptedFrameIsItsInstructionsEncoding _ _ _ hd
  obtain ⟨-, -, -, -, -, -, hkmax, -, -, -⟩ := hwf
  exact length_encode_le hkmax hi

end Sys2Proof.Machine

/-! # The machine: what a step keeps, and what a run answers (R26, R30, R61, R179, R203)

Every step but an overlap's only adds entries to the history and leaves the parameters alone (`step_extends`), and the
entries added are in order; so the invariant is kept. A step on a request is the equation `step_request`, which shows
that the answer depends on the parameters and the collaborator only and that a run answers its frames one after the other. -/

namespace Sys2Proof.Machine

open Sys2Proof.Reference

/-! ## The invariant -/

/-- A history in order stays in order when what is added is in order. -/
theorem traceOk_append {earlier added : List TraceEntry} (hearlier : traceOk earlier = true)
    (hadded : traceOk added = true) : traceOk (earlier ++ added) = true := by
  induction earlier using traceOk.induct with
  | case1 => exact hadded
  | case2 q r rest ih =>
    obtain ⟨hfits, hrest⟩ : responseFits q r = true ∧ traceOk rest = true := by simpa [traceOk] using hearlier
    simp [traceOk, hfits, ih hrest]
  | case3 q rest ih => exact ih hearlier
  | case4 => simp_all [traceOk]
  | case5 => cases hearlier
  | case6 rest ih => exact ih hearlier
  | case7 rest ih => exact ih hearlier

/-- A step leaves the parameters alone and adds to the history entries that are in order when the parameters are
admissible. -/
theorem step_extends {s t : State} (h : step s = .next t) :
    t.params = s.params ∧ ∃ added, t.trace = s.trace ++ added ∧ (s.params.Wf → traceOk added = true) := by
  cases hevents : s.events with
  | nil =>
    rw [step_idle hevents] at h
    obtain rfl := Host.Outcome.next.inj h
    exact ⟨rfl, [], by simp, fun _ => rfl⟩
  | cons e rest =>
    cases e with
    | request frame =>
      rw [step_request hevents] at h
      obtain rfl := Host.Outcome.next.inj h
      refine ⟨rfl, _, rfl, fun hwf => ?_⟩
      simp [traceOk, responseFits_replyTo hwf]
    | requestThenReset frame =>
      rw [step_requestThenReset hevents] at h
      obtain rfl := Host.Outcome.next.inj h
      exact ⟨rfl, _, rfl, fun _ => rfl⟩
    | resetSignal =>
      rw [step_event hevents] at h
      obtain rfl := Host.Outcome.next.inj h
      exact ⟨rfl, _, rfl, fun _ => rfl⟩
    | initCollaborator arg =>
      rw [step_event hevents] at h
      obtain rfl := Host.Outcome.next.inj h
      exact ⟨rfl, _, rfl, fun _ => rfl⟩
    | overlap first second =>
      rw [step_event hevents] at h
      cases h

/-- Settles O28: the entries a step adds are in order. -/
theorem stepKeepsTheInvariant : Obligations.StepKeepsTheInvariant := by
  rintro s t ⟨hwf, htrace⟩ h
  obtain ⟨hparams, added, hadded, horder⟩ := step_extends h
  exact ⟨hparams ▸ hwf, hadded ▸ traceOk_append htrace (horder hwf)⟩

/-- Settles O30. -/
theorem stepKeepsTheParameters : Obligations.StepKeepsTheParameters :=
  fun _ _ h => (step_extends h).1

/-- Settles O29: the defaults by evaluation; the history is empty. -/
theorem resetMeetsTheInvariant : Obligations.ResetMeetsTheInvariant :=
  ⟨by decide, rfl⟩

/-! ## Answers depend on the request alone (R20, R179, R203) -/

theorem head?_encode (i : Instr) : (encode i).head? = some i.opcode.code := rfl

/-- The reply to a frame that is no gas operation does not depend on the collaborator. -/
theorem replyTo_voc_irrelevant (p : Params) (voc voc' : VocState) {frame : Frame} (hcnv : frame.head? ≠ some 0x32)
    (hmeas : frame.head? ≠ some 0x39) : replyTo p voc frame = replyTo p voc' frame := by
  cases hd : decode p frame with
  | error e => rw [replyTo_of_error hd, replyTo_of_error hd]
  | ok i =>
    obtain ⟨rfl, -⟩ := acceptedFrameIsItsInstructionsEncoding _ _ _ hd
    rw [replyTo_of_ok hd, replyTo_of_ok hd]
    rw [head?_encode] at hcnv hmeas
    exact responseTo_voc_irrelevant p voc voc' (fun h => hcnv (by rw [h]; rfl)) (fun h => hmeas (by rw [h]; rfl))

/-- Settles O31: both steps are `step_request`'s, whose reply and collaborator are functions of what agrees. -/
theorem responseDependsOnTheRequestAlone : Obligations.ResponseDependsOnTheRequestAlone := by
  intro s1 s2 t1 t2 frame rest1 rest2 hparams hevents1 hevents2 h1 h2 hgas
  rw [step_request hevents1] at h1
  rw [step_request hevents2] at h2
  obtain rfl := Host.Outcome.next.inj h1
  obtain rfl := Host.Outcome.next.inj h2
  have hreply : replyTo s1.params s1.voc frame = replyTo s2.params s2.voc frame := by
    rw [hparams]
    obtain ⟨hcnv, hmeas⟩ | hvoc := hgas
    · exact replyTo_voc_irrelevant _ _ _ hcnv hmeas
    · rw [hvoc]
  exact ⟨by simp [served, hreply], fun hvoc => vocWhenDone_congr hparams hvoc frame⟩

/-- A step on a request uses it up. -/
theorem events_of_step_request {s t : State} {frame : Frame} {rest : List HostEvent}
    (hevents : s.events = .request frame :: rest) (h : step s = .next t) : t.events = rest := by
  rw [step_request hevents] at h
  obtain rfl := Host.Outcome.next.inj h
  rfl

/-- Settles O33: after the refusal the parameters and the collaborator are as before, and the answer needs no more. -/
theorem refusedRequestLeavesNoTrace : Obligations.RefusedRequestLeavesNoTrace := by
  intro s t u v bad next rest status hevents hcheck hbad hu hv
  rw [refusedFrameAnswersFirstFailingCheck s bad _ status hevents hcheck] at hbad
  obtain rfl := Host.Outcome.next.inj hbad
  obtain ⟨hresponse, hvoc⟩ := responseDependsOnTheRequestAlone (served s (.request next :: rest) bad [status])
    { s with events := .request next :: rest } u v next rest rest rfl rfl rfl hu hv (.inr rfl)
  refine ⟨hresponse, hvoc rfl, ?_⟩
  rw [events_of_step_request rfl hu, events_of_step_request rfl hv]

/-! ## A run (R31, R51, R212) -/

/-- A run of one step more is a step and a run of the rest. -/
theorem run_succ_of_step {s t : State} (h : step s = .next t) (n : Nat) :
    Host.Core.run core (n + 1) s = Host.Core.run core n t := by
  have hstep : core.step s = .next t := h
  simp only [Host.Core.run, hstep]

/-- Settles O32, by induction on the frames still to be sent. -/
theorem runAnswersRequestsInOrder : Obligations.RunAnswersRequestsInOrder := by
  intro frames
  induction frames with
  | nil =>
    intro s hevents
    refine ⟨[], s.voc, rfl, ?_⟩
    obtain ⟨p, events, trace, voc, draws⟩ := s
    obtain rfl : events = [] := hevents
    simp [Host.Core.run]
  | cons frame frames ih =>
    intro s hevents
    have hstep := step_request hevents
    obtain ⟨responses, voc, hlen, hrun⟩ := ih _ (events_of_step_request hevents hstep)
    refine ⟨replyTo s.params s.voc frame :: responses, voc, by simp [hlen], ?_⟩
    rw [List.length_cons, run_succ_of_step hstep, hrun]
    simp [served]

/-! ## The host's other actions (R200, R204, R205) -/

/-- Settles O34. -/
theorem resetSignalChangesNothingElse : Obligations.ResetSignalChangesNothingElse :=
  fun _ _ hevents => step_event hevents

/-- Settles O36. -/
theorem hostInitialisesTheCollaborator : Obligations.HostInitialisesTheCollaborator :=
  fun _ _ _ hevents => step_event hevents

/-- Settles O37. -/
theorem overlappingRequestsHaveNoStep : Obligations.OverlappingRequestsHaveNoStep :=
  fun _ _ _ _ hevents => step_event hevents

/-- Settles O38. -/
theorem idleBlockStaysIdle : Obligations.IdleBlockStaysIdle :=
  fun _ hevents => step_idle hevents

/-- Settles O39. -/
theorem resetLeavesAnEmptyHistoryAndTheDefaults : Obligations.ResetLeavesAnEmptyHistoryAndTheDefaults :=
  ⟨rfl, rfl, rfl, rfl, rfl⟩

/-- Settles O57: the state after an abandoned request is `abandonRequest`'s. -/
theorem abandonedRequestStaysInTheHistory : Obligations.AbandonedRequestStaysInTheHistory :=
  fun _ _ _ hevents => ⟨_, step_requestThenReset hevents, rfl, rfl⟩

end Sys2Proof.Machine

/-! # Error detection (R96) and partial failure (R108)

The remainder is linear over XOR, so a corrupted word is valid exactly when the generator divides the error pattern. A
burst is a byte shifted up, and its remainder is that byte shifted through the register, which is zero only for zero. A
single bit leaves a power of x. Powers of x are different at different places, and each has odd weight because the
generator has an even number of terms; so neither two nor three of them add up to zero. -/

namespace Sys2Proof.Machine

open Sys2Proof.Reference

/-! ## The remainder of an error pattern -/

/-- A 24-bit pattern is its three bytes, first on the wire first. -/
theorem extractLsb'_append_bytes (e : BitVec 24) :
    e.extractLsb' 16 8 ++ e.extractLsb' 8 8 ++ e.extractLsb' 0 8 = e := by
  apply BitVec.eq_of_getLsbD_eq
  intro i hi
  simp
  grind

/-- The remainder is linear over XOR, a byte at a time. -/
theorem polyRemainder_append_xor (b0 b1 b2 e0 e1 e2 : Byte) :
    polyRemainder ((b0 ^^^ e0) ++ (b1 ^^^ e1) ++ (b2 ^^^ e2)) =
      polyRemainder (b0 ++ b1 ++ b2) ^^^ polyRemainder (e0 ++ e1 ++ e2) := by
  simp only [polyRemainder_append, crcShifts_xor]
  ac_rfl

theorem polyRemainder_xor (a b : BitVec 24) : polyRemainder (a ^^^ b) = polyRemainder a ^^^ polyRemainder b := by
  rw [← extractLsb'_append_bytes a, ← extractLsb'_append_bytes b, ← polyRemainder_append_xor,
    ← BitVec.xor_append, ← BitVec.xor_append]

/-- A word is valid when its three bytes, the first with the register's start value on it, leave no remainder. -/
theorem groupValid_iff_polyRemainder (g : FramedWord) :
    groupValid g = true ↔ polyRemainder ((crcInit ^^^ g.hi) ++ g.lo ++ g.crc) = 0 := by
  rw [polyRemainder_append, groupValid, beq_iff_eq]
  exact BitVec.xor_eq_zero_iff.symm

/-- A corrupted valid word is valid exactly when the generator divides the pattern. -/
theorem groupValid_corrupt_iff {g : FramedWord} (hg : groupValid g = true) (e : BitVec 24) :
    groupValid (corrupt g e) = true ↔ polyRemainder e = 0 := by
  have remainder : polyRemainder ((crcInit ^^^ (corrupt g e).hi) ++ (corrupt g e).lo ++ (corrupt g e).crc) =
      polyRemainder e := by
    rw [corrupt, ← BitVec.xor_assoc, polyRemainder_append_xor, (groupValid_iff_polyRemainder g).mp hg,
      extractLsb'_append_bytes]
    exact BitVec.zero_xor
  rw [groupValid_iff_polyRemainder, remainder]

/-- The example of part (c), by evaluation of the register. -/
theorem polyRemainder_example : polyRemainder 0x800023 = 0x00 := by
  have bytes : (0x800023 : BitVec 24) = 0x80#8 ++ 0x00#8 ++ 0x23#8 := by decide
  have first : crcShifts 8 0x80#8 = 0x7A#8 := by decide
  have second : crcShifts 8 0x7A#8 = 0x23#8 := by decide
  rw [bytes, polyRemainder_append, first, BitVec.xor_zero, second]
  rfl

/-- Settles O42: the corrupted word's remainder is that of the pattern alone. -/
theorem undetectedCorruptionsAreTheMultiples : Obligations.UndetectedCorruptionsAreTheMultiples :=
  ⟨fun _ e hg => groupValid_corrupt_iff hg e, polyRemainder_example⟩

/-- A corruption the generator does not divide is detected. -/
theorem decodeWord_corrupt_eq_none {g : FramedWord} (hg : groupValid g = true) {e : BitVec 24}
    (he : polyRemainder e ≠ 0) : decodeWord (corrupt g e) = none := by
  rw [decodeWord, if_neg ((groupValid_corrupt_iff hg e).not.mpr he)]

/-! ## Bursts (R96 b) -/

theorem foldl_cancel_of_low {v : BitVec 24} {positions : List Nat}
    (h : ∀ k ∈ positions, v.getLsbD (k + 8) = false) : positions.foldl cancel v = v := by
  induction positions with
  | nil => rfl
  | cons k positions ih =>
    obtain ⟨hk, hpositions⟩ := List.forall_mem_cons.mp h
    rw [List.foldl_cons, cancel, hk]
    exact ih hpositions

/-- The remainder of a byte n places up is the byte after n shifts: above it the division has nothing to cancel. -/
theorem polyRemainder_setWidth_shiftLeft (b : Byte) {n : Nat} (hn : n ≤ 16) :
    polyRemainder (b.setWidth 24 <<< n) = crcShifts n b := by
  have positions : ((List.range 16).map fun k => 15 - k) =
      (List.range' n (16 - n)).reverse ++ (List.range' 0 n).reverse := by
    rw [← List.reverse_append, show List.range' n (16 - n) = List.range' (0 + 1 * n) (16 - n) by simp,
      List.range'_append, show n + (16 - n) = 16 by omega]
    decide
  have above : ∀ k ∈ (List.range' n (16 - n)).reverse, (b.setWidth 24 <<< n).getLsbD (k + 8) = false := by
    intro k hk
    have hnk : n ≤ k := (List.mem_range'_1.mp (List.mem_reverse.mp hk)).1
    rw [BitVec.getLsbD_shiftLeft, BitVec.getLsbD_setWidth, BitVec.getLsbD_of_ge b _ (by omega)]
    simp
  have shifts := foldl_cancel_register n 0 b 0 (by omega) (by simp)
  simp only [Nat.zero_add, BitVec.xor_zero, BitVec.ofNat_eq_ofNat] at shifts
  rw [polyRemainder, positions, List.foldl_append, foldl_cancel_of_low above, shifts]
  simp

/-- Settles O44: the pattern's remainder is the pattern shifted through the register, which no shift makes zero. -/
theorem burstsWithinEightBitsAreDetected : Obligations.BurstsWithinEightBitsAreDetected := by
  intro g pattern offset hg hpattern
  apply decodeWord_corrupt_eq_none hg
  rw [polyRemainder_setWidth_shiftLeft pattern (by omega)]
  exact crcShifts_eq_zero_iff.not.mpr hpattern

/-! ## The register's powers of x (R96 a, d) -/

theorem crcShifts_add (m n : Nat) (crc : Byte) : crcShifts (m + n) crc = crcShifts n (crcShifts m crc) := by
  induction m generalizing crc with
  | zero => rw [Nat.zero_add, crcShifts]
  | succ m ih => rw [Nat.succ_add, crcShifts, ih, crcShifts]

theorem crcShifts_injective (n : Nat) : Function.Injective (crcShifts n) := by
  intro a b h
  have hzero : crcShifts n (a ^^^ b) = 0 := by rw [crcShifts_xor, h]; exact BitVec.xor_self
  exact BitVec.xor_eq_zero_iff.mp (crcShifts_eq_zero_iff.mp hzero)

/-- With finitely many registers, shifts that lose nothing reach every register. -/
theorem crcShifts_surjective (n : Nat) : Function.Surjective (crcShifts n) :=
  have : Finite Byte := Finite.of_injective BitVec.toFin fun _ _ => BitVec.eq_of_toFin_eq
  Finite.surjective_of_injective (crcShifts_injective n)

/-- A single bit in a byte: no coefficient has yet to be cancelled. -/
theorem crcShifts_one_of_lt_eight : ∀ m : Fin 8, crcShifts m 0x01 = 1#8 <<< m.val := by
  decide

theorem bit_above_sixteen : ∀ m : Fin 8, 1#24 <<< (m.val + 16) = (1#8 <<< m.val).setWidth 24 <<< 16 := by
  decide

/-- The remainder of a single bit is the power of x at its place. -/
theorem polyRemainder_bit {n : Nat} (hn : n < 24) : polyRemainder (1#24 <<< n) = crcShifts n 0x01 := by
  by_cases hlow : n ≤ 16
  · exact polyRemainder_setWidth_shiftLeft 0x01 hlow
  · obtain ⟨m, rfl⟩ : ∃ m, n = m + 16 := ⟨n - 16, by omega⟩
    have hm : m < 8 := by omega
    rw [bit_above_sixteen ⟨m, hm⟩, polyRemainder_setWidth_shiftLeft _ le_rfl,
      ← crcShifts_one_of_lt_eight ⟨m, hm⟩, crcShifts_add]

/-! ## One, two or three flipped bits (R96 a) -/

/-- The powers of x do not return to 1 within a framed word. -/
theorem eq_zero_of_crcShifts_one : ∀ d : Fin 24, crcShifts d 0x01 = 0x01 → d.val = 0 := by
  decide

/-- Two bits at different places leave different remainders. -/
theorem crcShifts_one_inj {i j : Nat} (hi : i ≤ j) (hj : j < 24) (h : crcShifts i 0x01 = crcShifts j 0x01) : i = j := by
  obtain ⟨d, rfl⟩ := Nat.exists_eq_add_of_le hi
  rw [Nat.add_comm, crcShifts_add] at h
  have hd := eq_zero_of_crcShifts_one ⟨d, by omega⟩ (crcShifts_injective i h).symm
  simp_all

/-- The weight of a byte is odd. -/
def oddWeight (b : Byte) : Bool :=
  b.getLsbD 0 ^^ b.getLsbD 1 ^^ b.getLsbD 2 ^^ b.getLsbD 3 ^^
    b.getLsbD 4 ^^ b.getLsbD 5 ^^ b.getLsbD 6 ^^ b.getLsbD 7

theorem oddWeight_xor (a b : Byte) : oddWeight (a ^^^ b) = (oddWeight a ^^ oddWeight b) := by
  have : Std.Commutative Bool.xor := ⟨Bool.xor_comm⟩
  simp only [oddWeight, BitVec.getLsbD_xor]
  ac_rfl

/-- The generator has an even number of terms. -/
theorem oddWeight_crcShift : ∀ crc : Byte, oddWeight (crcShift crc) = oddWeight crc := by
  decide

theorem oddWeight_crcShifts (n : Nat) (crc : Byte) : oddWeight (crcShifts n crc) = oddWeight crc := by
  induction n generalizing crc with
  | zero => rfl
  | succ n ih => rw [crcShifts, ih, oddWeight_crcShift]

theorem getLsbD_bit {i k : Nat} (hik : i ≠ k) : (1#24 <<< i).getLsbD k = false := by
  rw [← BitVec.twoPow_eq, BitVec.getLsbD_twoPow]
  simp [hik]

/-- Setting a bit that is clear is flipping it. -/
theorem or_bit_eq_xor {v : BitVec 24} {k : Nat} (hv : v.getLsbD k = false) :
    v ||| (1#24 <<< k) = v ^^^ (1#24 <<< k) := by
  apply BitVec.eq_of_getLsbD_eq
  intro n hn
  rw [BitVec.getLsbD_or, BitVec.getLsbD_xor]
  by_cases hkn : k = n
  · rw [← hkn, hv, Bool.false_or, Bool.false_xor]
  · rw [getLsbD_bit hkn, Bool.or_false, Bool.xor_false]

/-- One bit leaves a power of x, two bits the sum of two different powers. -/
theorem polyRemainder_two_bits_ne_zero (i j : Fin 24) :
    polyRemainder ((1#24 <<< i.val) ||| (1#24 <<< j.val)) ≠ 0 := by
  by_cases hij : i.val = j.val
  · rw [hij, BitVec.or_self, polyRemainder_bit j.isLt]
    exact crcShifts_eq_zero_iff.not.mpr (by decide)
  · rw [or_bit_eq_xor (getLsbD_bit hij), polyRemainder_xor, polyRemainder_bit i.isLt, polyRemainder_bit j.isLt]
    intro hzero
    have hsame := BitVec.xor_eq_zero_iff.mp hzero
    obtain hle | hle := Nat.le_total i j
    · exact hij (crcShifts_one_inj hle j.isLt hsame)
    · exact hij (crcShifts_one_inj hle i.isLt hsame.symm).symm

/-- Three bits at three places leave a remainder of odd weight. -/
theorem polyRemainder_three_bits_ne_zero {i j k : Fin 24} (hij : i ≠ j) (hik : i ≠ k) (hjk : j ≠ k) :
    polyRemainder ((1#24 <<< i.val) ||| (1#24 <<< j.val) ||| (1#24 <<< k.val)) ≠ 0 := by
  have odd : oddWeight (polyRemainder ((1#24 <<< i.val) ||| (1#24 <<< j.val) ||| (1#24 <<< k.val))) = true := by
    have third : ((1#24 <<< i.val) ||| (1#24 <<< j.val)).getLsbD k.val = false := by
      rw [BitVec.getLsbD_or, getLsbD_bit (Fin.val_ne_of_ne hik), getLsbD_bit (Fin.val_ne_of_ne hjk), Bool.false_or]
    rw [or_bit_eq_xor third, or_bit_eq_xor (getLsbD_bit (Fin.val_ne_of_ne hij))]
    simp only [polyRemainder_xor, oddWeight_xor, polyRemainder_bit (Fin.isLt _), oddWeight_crcShifts]
    rfl
  intro hzero
  rw [hzero] at odd
  exact absurd odd (by decide)

/-- Settles O43: when two of the three places agree the pattern is one of two bits. -/
theorem upToThreeFlippedBitsAreDetected : Obligations.UpToThreeFlippedBitsAreDetected := by
  intro g i j k hg
  apply decodeWord_corrupt_eq_none hg
  by_cases hij : i = j
  · rw [hij, BitVec.or_self]
    exact polyRemainder_two_bits_ne_zero j k
  by_cases hik : i = k
  · rw [hik, BitVec.or_comm (1#24 <<< k.val), BitVec.or_assoc, BitVec.or_self]
    exact polyRemainder_two_bits_ne_zero j k
  by_cases hjk : j = k
  · rw [hjk, BitVec.or_assoc, BitVec.or_self]
    exact polyRemainder_two_bits_ne_zero i k
  exact polyRemainder_three_bits_ne_zero hij hik hjk

/-! ## The words of a checksum (R96 d) -/

/-- Settles O45: the second byte's eight shifts are a bijection of the registers. -/
theorem eachChecksumHasOneWordPerHighByte : Obligations.EachChecksumHasOneWordPerHighByte := by
  intro b0 c
  obtain ⟨register, rfl⟩ := crcShifts_surjective 8 c
  have hcrc (b1 : Byte) : crc8 b0 b1 = crcShifts 8 (crcByte crcInit b0 ^^^ b1) := rfl
  refine ⟨crcByte crcInit b0 ^^^ register, ?_, fun b hb => ?_⟩
  · rw [hcrc, ← BitVec.xor_assoc, BitVec.xor_self, BitVec.zero_xor]
  · rw [hcrc] at hb
    rw [← crcShifts_injective 8 hb, ← BitVec.xor_assoc, BitVec.xor_self, BitVec.zero_xor]

/-! ## Partial failure (R108) -/

theorem valid_encodeWord (v : Word) : valid (encodeWord v) = true :=
  (decodeWord_eq_some_iff.mp (decodeWord_encodeWord v)).1

theorem valid_corrupt_encodeWord (v : Word) {e : BitVec 24} (he : polyRemainder e ≠ 0) :
    valid (corrupt (encodeWord v) e) = false := by
  have hvalid : groupValid (encodeWord v) = true := by rw [groupValid_eq_valid, valid_encodeWord]
  rw [← groupValid_eq_valid]
  exact Bool.eq_false_iff.mpr ((groupValid_corrupt_iff hvalid e).not.mpr he)

/-- Of encoded words with one replaced by an invalid word, the valid ones are the others. -/
theorem filter_valid_set (vs : List Word) {i : Nat} (hi : i < vs.length) {bad : FramedWord} (hbad : valid bad = false) :
    ((vs.map encodeWord).set i bad).filter valid = (vs.eraseIdx i).map encodeWord := by
  have encoded (ws : List Word) : (ws.map encodeWord).filter valid = ws.map encodeWord :=
    List.filter_eq_self.mpr (by simp [valid_encodeWord])
  rw [List.set_eq_take_append_cons_drop, if_pos (by simpa using hi), List.filter_append,
    List.filter_cons_of_neg (by simp [hbad]), List.eraseIdx_eq_take_drop_succ, List.map_append,
    ← List.map_take, ← List.map_drop, encoded, encoded]

theorem flatMap_map_encodeWord (vs : List Word) :
    ((vs.map encodeWord).flatMap fun g => [g.hi, g.lo]) =
      vs.flatMap fun v => [v.extractLsb' 8 8, v.extractLsb' 0 8] :=
  List.flatMap_map ..

/-- Of encoded words with one replaced by an invalid word, every other is valid. -/
theorem any_valid_set (vs : List Word) (i : Nat) {bad : FramedWord} (hbad : valid bad = false) (j : Nat) :
    ((vs.map encodeWord).set i bad)[j]?.any valid = (decide (j < vs.length) && decide (j ≠ i)) := by
  rw [List.getElem?_set]
  by_cases hij : i = j
  · subst hij
    by_cases hi : i < vs.length <;> simp [hi, hbad]
  · by_cases hj : j < vs.length <;> simp [hij, hj, valid_encodeWord, eq_comm]

/-- Settles O47: FRM.DECK answers the valid groups, which are all but the corrupted one. -/
theorem corruptedGroupLeavesTheOthers : Obligations.CorruptedGroupLeavesTheOthers := by
  intro vs i hi e s hlen he
  have hbad := valid_corrupt_encodeWord vs[i] he
  refine ⟨maskByte (((vs.map encodeWord).set i (corrupt (encodeWord vs[i]) e)).map valid), ?_, fun j => ?_⟩
  · rw [exec_frmDeck_eq_answered_valid, filter_valid_set vs hi hbad, flatMap_map_encodeWord]
  · rw [maskByte_map_valid_getLsbD (by simpa using hlen), any_valid_set vs i hbad]

end Sys2Proof.Machine

/-! # The conversions and their inverses (R121 to R123, R128, R142 to R149)

The temperature statements are linear with the source's constants. The humidity statements hold for every admissible
span, so they rest on `roundDiv_eq_iff`: a code is characterised by two inequalities in its product with the span. -/

namespace Sys2Proof.Machine

open Sys2Proof.Reference

/-! ## Temperature (R121) -/

/-- Settles O49: the map is affine with the positive slope 175. -/
theorem temperatureMapIsStrictlyIncreasing : Obligations.TemperatureMapIsStrictlyIncreasing := by
  refine ⟨fun a b hab => ?_, rfl, rfl⟩
  have hlt : a.toNat < b.toNat := hab
  rw [convT_eq, convT_eq]
  omega

/-! ## Humidity (R122, R123, R128) -/

theorem rhLin_eq (p : Params) (raw : Word) : rhLin p raw = p.rhSpan * raw.toNat + p.rhOffset * 65535 := rfl

theorem convRh_eq_clamp (p : Params) (raw : Word) : convRh p raw = min (max (rhLin p raw) 0) 6553500 := rfl

/-- Settles O50: with the default parameters the clamp is of one affine map. -/
theorem humidityClampThresholds : Obligations.HumidityClampThresholds := by
  intro raw
  have hlin : rhLin defaultParams raw = 125 * raw.toNat - 393210 := rfl
  rw [convRh_eq_clamp, hlin]
  split_ifs <;> omega

/-- The unclamped humidity of an admissible block fits 32 signed bits. -/
theorem rhLin_fits {p : Params} (hwf : p.Wf) (raw : Word) :
    -2147483648 ≤ rhLin p raw ∧ rhLin p raw ≤ 2147483647 := by
  obtain ⟨hspan, hoffset, -, -, hspanMax, hoffsetMin, -⟩ := hwf
  have hraw : (raw.toNat : Int) ≤ 65535 := by have := raw.isLt; omega
  have hlow : 0 ≤ p.rhSpan * raw.toNat := by positivity
  have hhigh : p.rhSpan * raw.toNat ≤ 8191 * 65535 := by gcongr
  rw [rhLin_eq]
  omega

theorem rhLin_injective {p : Params} (hspan : 0 < p.rhSpan) : Function.Injective (rhLin p) := by
  intro a b h
  have hproduct : p.rhSpan * a.toNat = p.rhSpan * b.toNat := add_right_cancel h
  have hcode : (a.toNat : Int) = b.toNat := mul_left_cancel₀ hspan.ne' hproduct
  exact BitVec.eq_of_toNat_eq (by exact_mod_cast hcode)

/-- Settles O51: the clamp gives the range, and two clamped values agree only when the unclamped do or both are beyond
the same bound. -/
theorem humidityRangeAndCollisions : Obligations.HumidityRangeAndCollisions := by
  intro p a b hwf
  obtain ⟨hlow, hhigh⟩ := rhLin_fits hwf a
  rw [convRh_eq_clamp, convRh_eq_clamp]
  refine ⟨by omega, by omega, hlow, hhigh, fun hne hsame => ?_⟩
  have hlin : rhLin p a ≠ rhLin p b := (rhLin_injective hwf.1).ne hne
  omega

/-! ## Rounding (R144) -/

/-- The floor's two inequalities. -/
theorem roundDiv_eq_iff {a b q : Int} (hb : 0 < b) :
    roundDiv a b = q ↔ 2 * b * q ≤ 2 * a + b ∧ 2 * a + b < 2 * b * (q + 1) := by
  rw [roundDiv, Int.ediv_eq_iff_of_pos (by omega), mul_comm q, mul_add_one]

/-- Settles O52. -/
theorem roundingIsToNearestHalvesUp : Obligations.RoundingIsToNearestHalvesUp :=
  fun _ _ _ => roundDiv_eq_iff

/-- A multiple of the divisor is rounded to its factor. -/
theorem roundDiv_mul_self {b : Int} (hb : 0 < b) (q : Int) : roundDiv (b * q) b = q := by
  rw [roundDiv_eq_iff hb, mul_add, mul_assoc]
  omega

/-- The rounded quotient times the divisor is at most half the divisor off. -/
theorem two_mul_abs_mul_roundDiv_sub_le {b : Int} (hb : 0 < b) (a : Int) : 2 * |b * roundDiv a b - a| ≤ b := by
  obtain ⟨hlow, hhigh⟩ := (roundDiv_eq_iff hb).mp (rfl : roundDiv a b = roundDiv a b)
  rw [mul_add, mul_assoc] at hhigh
  rw [mul_assoc] at hlow
  obtain ⟨habs, -⟩ | ⟨habs, -⟩ := abs_cases (b * roundDiv a b - a) <;> omega

/-! ## Codes and their inverses (R142 to R145, R149) -/

/-- Settles O53: the codes fit by `encT_fits` and `encRh_fits`; with the default parameters the humidity code is one
rounded quotient. -/
theorem compensationCodesFitSixteenBits : Obligations.CompensationCodesFitSixteenBits := by
  refine ⟨fun n hlow hhigh => ?_, fun p n hwf hlow hhigh => ?_, fun n hlow hhigh => ?_⟩
  · have := encT_fits hlow hhigh
    omega
  · have := encRh_fits hwf hlow hhigh
    omega
  · have hcode : encRh defaultParams n = (2 * (n + 393210) + 125) / 250 := by simp [encRh_eq, defaultParams]
    omega

/-- The temperature of a code that fits is the affine map's at the code. -/
theorem convT_ofInt_encT {n : Int} (hlow : -2949075 ≤ n) (hhigh : n ≤ 8519550) :
    convT (BitVec.ofInt 16 (encT n)) = 175 * encT n - 2949075 := by
  rw [convT_eq, toNat_ofInt16 (encT_fits hlow hhigh)]

/-- Settles O54: the code is the rounded quotient by 175, and half of 175 is 87. -/
theorem temperatureSurvivesEncoding : Obligations.TemperatureSurvivesEncoding := by
  intro n hlow hhigh
  rw [convT_ofInt_encT hlow hhigh, encT_eq]
  omega

/-- The unclamped humidity of a code that fits. -/
theorem rhLin_ofInt_encRh {p : Params} (hwf : p.Wf) {n : Int} (hlow : 0 ≤ n) (hhigh : n ≤ 6553500) :
    rhLin p (BitVec.ofInt 16 (encRh p n)) = p.rhSpan * encRh p n + p.rhOffset * 65535 := by
  rw [rhLin_eq, toNat_ofInt16 (encRh_fits hwf hlow hhigh)]

/-- Clamping into an interval brings no number further from one that lies in it. -/
theorem abs_clamp_sub_le (x : Int) {n : Int} (hlow : 0 ≤ n) (hhigh : n ≤ 6553500) :
    |min (max x 0) 6553500 - n| ≤ |x - n| := by
  calc |min (max x 0) 6553500 - n|
    _ = |min (max x 0) 6553500 - min (max n 0) 6553500| := by rw [max_eq_left hlow, min_eq_left hhigh]
    _ ≤ |max x 0 - max n 0| := (abs_min_sub_min_le_max ..).trans (by simp)
    _ ≤ |x - n| := abs_max_sub_max_le_abs ..

/-- Settles O55: unclamped it is the rounding's error, which the clamp does not enlarge. -/
theorem humiditySurvivesEncoding : Obligations.HumiditySurvivesEncoding := by
  intro p n hwf hlow hhigh
  have unclamped : 2 * |rhLin p (BitVec.ofInt 16 (encRh p n)) - n| ≤ p.rhSpan := by
    have herror := two_mul_abs_mul_roundDiv_sub_le hwf.1 (n - p.rhOffset * 65535)
    have hdiff : p.rhSpan * encRh p n + p.rhOffset * 65535 - n = p.rhSpan * encRh p n - (n - p.rhOffset * 65535) := by
      ring
    rw [rhLin_ofInt_encRh hwf hlow hhigh, hdiff]
    exact herror
  have hclamp := abs_clamp_sub_le (rhLin p (BitVec.ofInt 16 (encRh p n))) hlow hhigh
  rw [← convRh_eq_clamp] at hclamp
  exact ⟨unclamped, by omega⟩

/-- Settles O56: the dividend is the multiple of the span that the conversion added the offset to. -/
theorem encodingInvertsConversion : Obligations.EncodingInvertsConversion := by
  refine ⟨fun raw => ?_, fun p raw hwf hlow hhigh => ?_⟩
  · have hdividend : convT raw - tOffset * physDen = tSpan * raw.toNat := Int.add_sub_cancel ..
    rw [encT, hdividend, roundDiv_mul_self (by decide)]
  · have hclamp : convRh p raw = rhLin p raw := by
      rw [convRh_eq_clamp]
      omega
    have hdividend : rhLin p raw - p.rhOffset * physDen = p.rhSpan * raw.toNat := Int.add_sub_cancel ..
    rw [encRh, hclamp, hdividend, roundDiv_mul_self hwf.1]

end Sys2Proof.Machine
